-- ==== Sys2Proof/Word.lean ====
section
/-! DEFINITION. The values that cross the boundary of the codec: scalars, the 7-byte frame, the messages of the
two directions, the reference coding of a message port, the calls a host can make and the outputs it gets.
spec/10_state.md sections 2 and 3. -/

namespace Sys2Proof

/-- `Byte` of rule R28: an unsigned integer 0..255, never read as signed (D14). -/
abbrev Byte := BitVec 8

/-- `Bit` of rule R28, the 1-bit output of `VALIDATE` and `IS_START`: `true` is 1, `false` is 0. -/
abbrev Bit := Bool

/-- A number of centimetres, exact: every formula of the spec is evaluated in it without rounding (R120, D3). -/
abbrev Cm := Rat

/-- `Height` of rules R28 and R120. A height is an exact number of centimetres; the values that a number format may have
beside those, NaN and the infinities of rule R131, are told apart by a number and have no arithmetic (D5, I2).
Assumption log entry 6. -/
inductive Height where
  | cm (q : Cm)
  | nonFinite (n : Nat)
deriving DecidableEq, Repr, Inhabited

/-- The bits on a `Height` port in the format `HEIGHT_FMT` of rules R9 and R32, as a number; the format's width is open.
What height a word stands for is `Config.heightFmt`. -/
abbrev HeightWord := Nat

/-- `Frame` of rules R28, R40 and R41: exactly seven bytes, one field per frame index 0..6, named as R41 names
them (`endMark` is the byte R41 calls `end`, a reserved word of Lean). -/
structure Frame where
  start   : Byte
  addr    : Byte
  cmd     : Byte
  pa      : Byte
  pb      : Byte
  ck      : Byte
  endMark : Byte
deriving DecidableEq, Repr, Inhabited

/-- `PanelToDeskMessage`, the closed set of eleven variants of rule R29. The bytes of `unknown` are address,
command, payload A, payload B, checksum. -/
inductive P2DMsg where
  | up
  | down
  | noKey
  | deskReset
  | resetOne
  | resetTwo
  | resetThree
  | one (h : Height)
  | two (h : Height)
  | three (h : Height)
  | unknown (a b c d e : Byte)
deriving DecidableEq, Repr, Inhabited

/-- `DeskToPanelMessage`, the closed set of two variants of rule R30. -/
inductive D2PMsg where
  | height (h : Height)
  | unknown (a b c d e : Byte)
deriving DecidableEq, Repr, Inhabited

/-- The five raw interior bytes of a message port in the reference coding (field `raw` of rule R32). -/
structure RawBytes where
  a : Byte
  b : Byte
  c : Byte
  d : Byte
  e : Byte
deriving DecidableEq, Repr, Inhabited

/-- A `P2DMsg` port in the reference coding of rule R32. -/
structure P2DPort where
  kind : BitVec 4
  h    : HeightWord
  raw  : RawBytes
deriving DecidableEq, Repr, Inhabited

/-- A `D2PMsg` port in the reference coding of rule R32. -/
structure D2PPort where
  kind : BitVec 1
  h    : HeightWord
  raw  : RawBytes
deriving DecidableEq, Repr, Inhabited

/-- The ten units of rule R31. -/
inductive UnitId where
  | cksum | build | h2b | b2h | p2dEnc | p2dDec | d2pEnc | d2pDec | validate | isStart
deriving DecidableEq, Repr

/-- One operation as the host issues it: a unit of rule R31 with values on its input ports. The first ten
constructors carry values of the types of rules R28 to R30. The last seven present the same operations as an
implementation's ports hold them: a height as a word of `HEIGHT_FMT` (R9), a message in the reference coding of rule
R32, a frame as a raw buffer. Only these can hold an input that is no value of those types (R230). -/
inductive Call where
  | cksum (addr cmd pa pb : Byte)
  | build (cmd pa pb : Byte)
  | h2b (h off : Height)
  | b2h (msb lsb : Byte) (off : Height)
  | p2dEnc (m : P2DMsg)
  | p2dDec (f : Frame)
  | d2pEnc (m : D2PMsg)
  | d2pDec (f : Frame)
  | validate (f : Frame)
  | isStart (b : Byte)
  | h2bWords (h off : HeightWord)
  | b2hWords (msb lsb : Byte) (off : HeightWord)
  | p2dEncPort (p : P2DPort)
  | d2pEncPort (p : D2PPort)
  | p2dDecBuffer (bytes : List Byte)
  | d2pDecBuffer (bytes : List Byte)
  | validateBuffer (bytes : List Byte)
deriving DecidableEq, Repr

/-- The value on a unit's output ports, one constructor per port type of rule R31. -/
inductive Output where
  | checksum (ck : Byte)
  | frame (g : Frame)
  | bytePair (msb lsb : Byte)
  | height (h : Height)
  | p2d (m : P2DMsg)
  | d2p (m : D2PMsg)
  | bit (v : Bit)
deriving DecidableEq, Repr

end Sys2Proof
end

