-- ==== Sys2Proof/Config.lean ====
section
/-! DEFINITION. What an implementation fixes and the spec leaves open: the free values of the model. -/

namespace Sys2Proof

/-- `HEIGHT_FMT` of rule R9 (D3, I3): an implementation's number format, given by the value of each of its words, an
exact number of centimetres or a NaN or infinity. Nothing is assumed about it: no width, no rounding, no particular
format. Negative zero is a word whose value is the number 0 (D5). Assumption log entry 6; safe. -/
opaque Config.heightFmt : HeightWord → Height

/-- `OOR_BYTES(h, off)` of rule R124 (D4): the pair (msb, lsb) that `H2B` gives for an out-of-range height, a NaN and an
infinity among them (D5). A total function of the input alone, about which nothing else is assumed; it has no body, so no proof can learn a value of
it. Assumption log entry 2; the free value is safe. -/
opaque Config.oorBytes : Height → Height → Byte × Byte

/-- What `B2H` returns for an offset that is a NaN or an infinity: the spec states no result there (R125 adds a number).
Assumption log entry 12; the free value is safe. -/
opaque Config.heightAtNonFiniteOffset : Byte → Byte → Nat → Height

end Sys2Proof
end

