-- ==== Sys2Proof/Machine/Constants.lean ====
section
/-! DEFINITION. The fixed values of the core: the constants of rule R8 and the command bytes of the two tables,
rules R63 and R64. They are not state and nothing can write them (R24, R54). -/

namespace Sys2Proof.Machine

/-- `START` (R8), frame index 0. -/
@[simp] def startMarker : Byte := 104

/-- `ADDR` (R8), frame index 1 of a frame made by the frame builder. -/
@[simp] def addrByte : Byte := 1

/-- `END` (R8), frame index 6. -/
@[simp] def endMarker : Byte := 22

/-- `FRAME_LEN` (R8, R60). -/
@[simp] def frameLen : Nat := 7

/-- `OFF_P2D` (R8, R121), in cm. -/
@[simp] def offP2D : Cm := 0

/-- `OFF_D2P` (R8, R121), in cm: the desk's physical minimum height. -/
@[simp] def offD2P : Cm := 65

/-- `MM_PER_CM` (R8). -/
@[simp] def mmPerCm : Cm := 10

/-- `BYTE_RADIX` (R8). -/
@[simp] def byteRadix : Nat := 256

/-! Panel→Desk command bytes, rule R63. -/

@[simp] def cmdUp : Byte := 1
@[simp] def cmdDown : Byte := 2
@[simp] def cmdNoKey : Byte := 3
@[simp] def cmdDeskReset : Byte := 4
@[simp] def cmdOne : Byte := 6
@[simp] def cmdTwo : Byte := 7
@[simp] def cmdThree : Byte := 8
@[simp] def cmdResetOne : Byte := 10
@[simp] def cmdResetTwo : Byte := 11
@[simp] def cmdResetThree : Byte := 12

/-- The Desk→Panel command byte, rule R64. -/
@[simp] def cmdHeight : Byte := 0

/-- Is `c` a key of the Panel→Desk table (R63)? The other 246 bytes are reserved or unrecognised (R68). -/
def p2dKnown (c : Byte) : Bool :=
  c == cmdUp || c == cmdDown || c == cmdNoKey || c == cmdDeskReset || c == cmdOne || c == cmdTwo ||
    c == cmdThree || c == cmdResetOne || c == cmdResetTwo || c == cmdResetThree

/-- Is `c` the key of the Desk→Panel table (R64)? The other 255 bytes are unrecognised (R69). -/
def d2pKnown (c : Byte) : Bool := c == cmdHeight

end Sys2Proof.Machine
end

