-- ==== Sys2Proof/Machine/Operands.lean ====
section
/-! DEFINITION. Operand forms: the bytes of a frame by index and as the 56-bit number `F`, and the height operand
(the units `H2B` and `B2H` and the byte order of each direction). Pure functions of their arguments. -/

namespace Sys2Proof.Machine

/-! ## The frame operand -/

/-- `f[i]` (spec/00_scope.md 7.3, R40, R41). An index outside 0..6 does not exist. -/
def frameByte (f : Frame) : Nat → Option Byte
  | 0 => some f.start
  | 1 => some f.addr
  | 2 => some f.cmd
  | 3 => some f.pa
  | 4 => some f.pb
  | 5 => some f.ck
  | 6 => some f.endMark
  | _ => none

/-- The seven bytes in index order, which is their order on the link (R42). -/
def frameBytes (f : Frame) : List Byte :=
  [f.start, f.addr, f.cmd, f.pa, f.pb, f.ck, f.endMark]

/-- The frame in a caller's buffer; a buffer that is not 7 bytes is no frame (R28, R49, R230). -/
def frameOfBytes : List Byte → Option Frame
  | [b0, b1, b2, b3, b4, b5, b6] => some ⟨b0, b1, b2, b3, b4, b5, b6⟩
  | _ => none

/-- `F`, the frame as a 56-bit number with `f[0]` in bits 55:48 (spec/00_scope.md 7.2, D7). -/
def frameBits (f : Frame) : BitVec 56 :=
  f.start.setWidth 56 <<< 48 ||| f.addr.setWidth 56 <<< 40 ||| f.cmd.setWidth 56 <<< 32 |||
    f.pa.setWidth 56 <<< 24 ||| f.pb.setWidth 56 <<< 16 ||| f.ck.setWidth 56 <<< 8 ||| f.endMark.setWidth 56

/-- The frame whose number `F` is `w`: `f[i] = F[55-8*i : 48-8*i]`. -/
def frameOfBits (w : BitVec 56) : Frame where
  start   := w.extractLsb' 48 8
  addr    := w.extractLsb' 40 8
  cmd     := w.extractLsb' 32 8
  pa      := w.extractLsb' 24 8
  pb      := w.extractLsb' 16 8
  ck      := w.extractLsb' 8 8
  endMark := w.extractLsb' 0 8

/-! ## The height operand -/

/-- `net_mm`: millimetres above the offset, exact (R122). -/
def netMm (h off : Cm) : Cm := (h - off) * mmPerCm

/-- In range (R122): `0 <= net_mm < 65536`. -/
abbrev heightInRange (h off : Cm) : Prop := 0 ≤ netMm h off ∧ netMm h off < 65536

/-- `H2B` (R122 in range, R123 for the fraction, R124 out of range): the pair (msb, lsb). A NaN and an infinity are out
of range (R131, D5); so is an offset that is one, which has no `net_mm` either. -/
def heightToBytes (h off : Height) : Byte × Byte :=
  match h, off with
  | .cm q, .cm o =>
    if heightInRange q o then
      let msb : Int := ⌊netMm q o / byteRadix⌋
      let rem : Cm := netMm q o - msb * byteRadix
      let lsb : Int := ⌊rem⌋
      (BitVec.ofInt 8 msb, BitVec.ofInt 8 lsb)
    else
      Config.oorBytes (.cm q) (.cm o)
  | .cm q, .nonFinite n => Config.oorBytes (.cm q) (.nonFinite n)
  | .nonFinite n, o => Config.oorBytes (.nonFinite n) o

/-- The 16-bit millimetre count of two bytes, both unsigned (R65). -/
def millimetres (msb lsb : Byte) : Nat := byteRadix * msb.toNat + lsb.toNat

/-- `B2H` (R125): exact rational division by ten. At an offset that is no number the result is free. -/
def bytesToHeight (msb lsb : Byte) (off : Height) : Height :=
  match off with
  | .cm o => .cm ((millimetres msb lsb : Cm) / mmPerCm + o)
  | .nonFinite n => Config.heightAtNonFiniteOffset msb lsb n

/-- The height a Panel→Desk frame carries: `msb = f[4]`, `lsb = f[3]`, offset 0 (R43, R65). -/
def p2dHeight (f : Frame) : Height := bytesToHeight f.pb f.pa (.cm offP2D)

/-- The height a Desk→Panel frame carries: `msb = f[3]`, `lsb = f[4]`, offset 65 (R43, R65). -/
def d2pHeight (f : Frame) : Height := bytesToHeight f.pa f.pb (.cm offD2P)

end Sys2Proof.Machine
end

