-- ==== Sys2Proof/Machine/Framer.lean ====
section
/-! DEFINITION. The checksum generator, the frame builder, and the frames of the four formats of rule R62.
Pure functions of their arguments. -/

namespace Sys2Proof.Machine

/-- `CKSUM` (R100): the sum over unbounded integers, then modulo 256 (R101). -/
def checksum (addr cmd pa pb : Byte) : Byte :=
  BitVec.ofNat 8 ((addr.toNat + cmd.toNat + pa.toNat + pb.toNat) % byteRadix)

/-- `BUILD` (R102). -/
def buildFrame (cmd pa pb : Byte) : Frame where
  start   := startMarker
  addr    := addrByte
  cmd     := cmd
  pa      := pa
  pb      := pb
  ck      := checksum addrByte cmd pa pb
  endMark := endMarker

/-- Format `NP` (R62): no payload. -/
def npFrame (cmd : Byte) : Frame := buildFrame cmd 0 0

/-- Format `HL` (R62, R43): a Panel→Desk height, low byte first, offset 0. -/
def hlFrame (cmd : Byte) (h : Height) : Frame :=
  buildFrame cmd (heightToBytes h (.cm offP2D)).2 (heightToBytes h (.cm offP2D)).1

/-- Format `HB` (R62, R43): a Desk→Panel height, high byte first, offset 65. -/
def hbFrame (h : Height) : Frame :=
  buildFrame cmdHeight (heightToBytes h (.cm offD2P)).1 (heightToBytes h (.cm offD2P)).2

/-- Format `RAW` (R62, R72): the five bytes of an `Unknown` between the markers; the frame builder and the checksum
are bypassed. -/
def rawFrame (a b c d e : Byte) : Frame := ⟨startMarker, a, b, c, d, e, endMarker⟩

end Sys2Proof.Machine
end

