-- ==== Sys2Proof/Machine/Flags.lean ====
section
/-! DEFINITION. The 1-bit results. The core has no flag, condition code or status bit (R23), so no operation
computes one; the two tests below are the only 1-bit values, and each is an output of its own call. -/

namespace Sys2Proof.Machine

/-- The test of `VALIDATE` (R200): both markers, and nothing else (R201). -/
def markersMatch (f : Frame) : Bit := f.start == startMarker && f.endMark == endMarker

/-- The test of `IS_START` (R202). -/
def isStartMarker (b : Byte) : Bit := b == startMarker

end Sys2Proof.Machine
end

