-- ==== Sys2Proof/Syntax.lean ====
section
/-! DEFINITION. The operations of the codec: one constructor per row of spec/opcode_table.json. -/

namespace Sys2Proof

/-- One operation of the block with its operands, which are values (rule R31). An encode row carries the fields of
its message, a decode row the frame it was selected from (rule R66). -/
inductive Instr where
  | p2dEncUp
  | p2dDecUp (f : Frame)
  | p2dEncDown
  | p2dDecDown (f : Frame)
  | p2dEncNoKey
  | p2dDecNoKey (f : Frame)
  | p2dEncDeskReset
  | p2dDecDeskReset (f : Frame)
  | p2dEncOne (h : Height)
  | p2dDecOne (f : Frame)
  | p2dEncTwo (h : Height)
  | p2dDecTwo (f : Frame)
  | p2dEncThree (h : Height)
  | p2dDecThree (f : Frame)
  | p2dEncResetOne
  | p2dDecResetOne (f : Frame)
  | p2dEncResetTwo
  | p2dDecResetTwo (f : Frame)
  | p2dEncResetThree
  | p2dDecResetThree (f : Frame)
  | p2dEncUnknown (a b c d e : Byte)
  | p2dDecUnknown (f : Frame)
  | d2pEncHeight (h : Height)
  | d2pDecHeight (f : Frame)
  | d2pEncUnknown (a b c d e : Byte)
  | d2pDecUnknown (f : Frame)
  | cksum (addr cmd pa pb : Byte)
  | build (cmd pa pb : Byte)
  | h2b (h off : Height)
  | b2h (msb lsb : Byte) (off : Height)
  | validate (f : Frame)
  | isStart (b : Byte)
deriving DecidableEq, Repr

end Sys2Proof
end

