-- ==== Sys2Proof/WellFormed.lean ====
section
/-! DEFINITION. Which instruction terms an operation can be: a decode row holds only a frame that selects it. -/

namespace Sys2Proof

open Sys2Proof.Machine

/-- A decode row carries a frame whose command byte selects that row (R66, R161 to R171, R186, R187). Every other
row is total over its operands, so it has no check. -/
def Instr.wellFormed : Instr → Bool
  | .p2dDecUp f => f.cmd == cmdUp
  | .p2dDecDown f => f.cmd == cmdDown
  | .p2dDecNoKey f => f.cmd == cmdNoKey
  | .p2dDecDeskReset f => f.cmd == cmdDeskReset
  | .p2dDecOne f => f.cmd == cmdOne
  | .p2dDecTwo f => f.cmd == cmdTwo
  | .p2dDecThree f => f.cmd == cmdThree
  | .p2dDecResetOne f => f.cmd == cmdResetOne
  | .p2dDecResetTwo f => f.cmd == cmdResetTwo
  | .p2dDecResetThree f => f.cmd == cmdResetThree
  | .p2dDecUnknown f => !p2dKnown f.cmd
  | .d2pDecHeight f => f.cmd == cmdHeight
  | .d2pDecUnknown f => !d2pKnown f.cmd
  | .p2dEncUp => true
  | .p2dEncDown => true
  | .p2dEncNoKey => true
  | .p2dEncDeskReset => true
  | .p2dEncOne _ => true
  | .p2dEncTwo _ => true
  | .p2dEncThree _ => true
  | .p2dEncResetOne => true
  | .p2dEncResetTwo => true
  | .p2dEncResetThree => true
  | .p2dEncUnknown _ _ _ _ _ => true
  | .d2pEncHeight _ => true
  | .d2pEncUnknown _ _ _ _ _ => true
  | .cksum _ _ _ _ => true
  | .build _ _ _ => true
  | .h2b _ _ => true
  | .b2h _ _ _ => true
  | .validate _ => true
  | .isStart _ => true

end Sys2Proof
end

