-- ==== Sys2Proof/Decode.lean ====
section
/-! DEFINITION. From what the host presents to an operation, and back. `decode` selects the row of
spec/opcode_table.json that a call runs and refuses by name an input that is no value of the port's type (R230);
`encode` is its inverse. `decodeWord` and `encodeWord` do the same for the words the table writes for each row. -/

namespace Sys2Proof

open Sys2Proof.Machine

/-- Why an input is refused. All of these are safe: nothing is claimed about such an input (D12). -/
inductive Reject where
  /-- Raised by `decode` for a frame buffer, and by `decodeWord` for a word, of `n` bytes where the port takes
  another number of them (R49, R230). Safe. -/
  | wrongLength (n : Nat)
  /-- Raised by `decode` for a `P2DMsg` port in the reference coding whose `kind` names no constructor: 0, 5, 9, 13
  or 14 (R32, R230). Safe. -/
  | noSuchTag (kind : BitVec 4)
  /-- Raised by `decodeWord` alone, for a word of an encoder or of `BUILD` in which a bit that spec/opcode_table.json
  fixes in that unit's output has the other value: no operation of the unit has that word. Safe. -/
  | fixedBits (u : UnitId)
deriving DecidableEq, Repr

/-! ## Selection of the row -/

/-- The row of a `P2D_ENC` call: the constructor of the message (R140). -/
def selectP2DEnc : P2DMsg → Instr
  | .up => .p2dEncUp
  | .down => .p2dEncDown
  | .noKey => .p2dEncNoKey
  | .deskReset => .p2dEncDeskReset
  | .resetOne => .p2dEncResetOne
  | .resetTwo => .p2dEncResetTwo
  | .resetThree => .p2dEncResetThree
  | .one h => .p2dEncOne h
  | .two h => .p2dEncTwo h
  | .three h => .p2dEncThree h
  | .unknown a b c d e => .p2dEncUnknown a b c d e

/-- The row of a `P2D_DEC` call: the command byte `f[2]` alone (R63, R66, R160). -/
def selectP2DDec (f : Frame) : Instr :=
  if f.cmd = cmdUp then .p2dDecUp f
  else if f.cmd = cmdDown then .p2dDecDown f
  else if f.cmd = cmdNoKey then .p2dDecNoKey f
  else if f.cmd = cmdDeskReset then .p2dDecDeskReset f
  else if f.cmd = cmdOne then .p2dDecOne f
  else if f.cmd = cmdTwo then .p2dDecTwo f
  else if f.cmd = cmdThree then .p2dDecThree f
  else if f.cmd = cmdResetOne then .p2dDecResetOne f
  else if f.cmd = cmdResetTwo then .p2dDecResetTwo f
  else if f.cmd = cmdResetThree then .p2dDecResetThree f
  else .p2dDecUnknown f

/-- The row of a `D2P_ENC` call: the constructor of the message (R180). -/
def selectD2PEnc : D2PMsg → Instr
  | .height h => .d2pEncHeight h
  | .unknown a b c d e => .d2pEncUnknown a b c d e

/-- The row of a `D2P_DEC` call: the command byte `f[2]` alone (R64, R66, R185). -/
def selectD2PDec (f : Frame) : Instr :=
  if f.cmd = cmdHeight then .d2pDecHeight f else .d2pDecUnknown f

/-! ## The reference coding of a message port, rule R32 -/

/-- The message on a `P2DMsg` port, or none for a `kind` that names no constructor. `h`, a word of `HEIGHT_FMT`, is read
for kinds 6, 7 and 8 only, `raw` for kind 15 only. -/
def p2dOfPort (p : P2DPort) : Option P2DMsg :=
  if p.kind = 1 then some .up
  else if p.kind = 2 then some .down
  else if p.kind = 3 then some .noKey
  else if p.kind = 4 then some .deskReset
  else if p.kind = 6 then some (.one (Config.heightFmt p.h))
  else if p.kind = 7 then some (.two (Config.heightFmt p.h))
  else if p.kind = 8 then some (.three (Config.heightFmt p.h))
  else if p.kind = 10 then some .resetOne
  else if p.kind = 11 then some .resetTwo
  else if p.kind = 12 then some .resetThree
  else if p.kind = 15 then some (.unknown p.raw.a p.raw.b p.raw.c p.raw.d p.raw.e)
  else none

/-- The message on a `D2PMsg` port: 0 `Height`, 1 `Unknown`. -/
def d2pOfPort (p : D2PPort) : D2PMsg :=
  if p.kind = 0 then .height (Config.heightFmt p.h) else .unknown p.raw.a p.raw.b p.raw.c p.raw.d p.raw.e

/-- A `P2DMsg` as a port in the reference coding. A field without meaning for the message is unspecified on output:
it is taken from `free`, about which nothing is assumed. How an implementation writes a height in `HEIGHT_FMT` is not
settled (R131): it is the argument `word`. -/
def p2dToPort (word : Height → HeightWord) (free : P2DPort) : P2DMsg → P2DPort
  | .up => ⟨1, free.h, free.raw⟩
  | .down => ⟨2, free.h, free.raw⟩
  | .noKey => ⟨3, free.h, free.raw⟩
  | .deskReset => ⟨4, free.h, free.raw⟩
  | .one h => ⟨6, word h, free.raw⟩
  | .two h => ⟨7, word h, free.raw⟩
  | .three h => ⟨8, word h, free.raw⟩
  | .resetOne => ⟨10, free.h, free.raw⟩
  | .resetTwo => ⟨11, free.h, free.raw⟩
  | .resetThree => ⟨12, free.h, free.raw⟩
  | .unknown a b c d e => ⟨15, free.h, ⟨a, b, c, d, e⟩⟩

/-- A `D2PMsg` as a port in the reference coding, with the same convention. -/
def d2pToPort (word : Height → HeightWord) (free : D2PPort) : D2PMsg → D2PPort
  | .height h => ⟨0, word h, free.raw⟩
  | .unknown a b c d e => ⟨1, free.h, ⟨a, b, c, d, e⟩⟩

/-! ## Calls -/

/-- The operation of a frame-reading unit on a raw buffer: refused unless the buffer is 7 bytes (R230). -/
def decodeBuffer (select : Frame → Instr) (bytes : List Byte) : Except Reject Instr :=
  match frameOfBytes bytes with
  | some f => .ok (select f)
  | none => .error (.wrongLength bytes.length)

/-- The operation a call runs, total on every call. -/
def decode : Call → Except Reject Instr
  | .cksum addr cmd pa pb => .ok (.cksum addr cmd pa pb)
  | .build cmd pa pb => .ok (.build cmd pa pb)
  | .h2b h off => .ok (.h2b h off)
  | .b2h msb lsb off => .ok (.b2h msb lsb off)
  | .p2dEnc m => .ok (selectP2DEnc m)
  | .p2dDec f => .ok (selectP2DDec f)
  | .d2pEnc m => .ok (selectD2PEnc m)
  | .d2pDec f => .ok (selectD2PDec f)
  | .validate f => .ok (.validate f)
  | .isStart b => .ok (.isStart b)
  | .h2bWords h off => .ok (.h2b (Config.heightFmt h) (Config.heightFmt off))
  | .b2hWords msb lsb off => .ok (.b2h msb lsb (Config.heightFmt off))
  | .p2dEncPort p =>
    match p2dOfPort p with
    | some m => .ok (selectP2DEnc m)
    | none => .error (.noSuchTag p.kind)
  | .d2pEncPort p => .ok (selectD2PEnc (d2pOfPort p))
  | .p2dDecBuffer bytes => decodeBuffer selectP2DDec bytes
  | .d2pDecBuffer bytes => decodeBuffer selectD2PDec bytes
  | .validateBuffer bytes => decodeBuffer Instr.validate bytes

/-- The call, with values on its ports, that runs an operation. -/
def encode : Instr → Call
  | .p2dEncUp => .p2dEnc .up
  | .p2dEncDown => .p2dEnc .down
  | .p2dEncNoKey => .p2dEnc .noKey
  | .p2dEncDeskReset => .p2dEnc .deskReset
  | .p2dEncOne h => .p2dEnc (.one h)
  | .p2dEncTwo h => .p2dEnc (.two h)
  | .p2dEncThree h => .p2dEnc (.three h)
  | .p2dEncResetOne => .p2dEnc .resetOne
  | .p2dEncResetTwo => .p2dEnc .resetTwo
  | .p2dEncResetThree => .p2dEnc .resetThree
  | .p2dEncUnknown a b c d e => .p2dEnc (.unknown a b c d e)
  | .p2dDecUp f => .p2dDec f
  | .p2dDecDown f => .p2dDec f
  | .p2dDecNoKey f => .p2dDec f
  | .p2dDecDeskReset f => .p2dDec f
  | .p2dDecOne f => .p2dDec f
  | .p2dDecTwo f => .p2dDec f
  | .p2dDecThree f => .p2dDec f
  | .p2dDecResetOne f => .p2dDec f
  | .p2dDecResetTwo f => .p2dDec f
  | .p2dDecResetThree f => .p2dDec f
  | .p2dDecUnknown f => .p2dDec f
  | .d2pEncHeight h => .d2pEnc (.height h)
  | .d2pEncUnknown a b c d e => .d2pEnc (.unknown a b c d e)
  | .d2pDecHeight f => .d2pDec f
  | .d2pDecUnknown f => .d2pDec f
  | .cksum addr cmd pa pb => .cksum addr cmd pa pb
  | .build cmd pa pb => .build cmd pa pb
  | .h2b h off => .h2b h off
  | .b2h msb lsb off => .b2h msb lsb off
  | .validate f => .validate f
  | .isStart b => .isStart b

/-! ## The words of spec/opcode_table.json

The table writes, for a row of a unit that reads a frame or bytes, the input; for a row of an encoder, of `BUILD` and
of `H2B`, the output. A word does not say which unit it belongs to (R252): the unit is an argument. -/

/-- The unit of a row (R31). -/
def unitOf : Instr → UnitId
  | .p2dEncUp => .p2dEnc
  | .p2dEncDown => .p2dEnc
  | .p2dEncNoKey => .p2dEnc
  | .p2dEncDeskReset => .p2dEnc
  | .p2dEncOne _ => .p2dEnc
  | .p2dEncTwo _ => .p2dEnc
  | .p2dEncThree _ => .p2dEnc
  | .p2dEncResetOne => .p2dEnc
  | .p2dEncResetTwo => .p2dEnc
  | .p2dEncResetThree => .p2dEnc
  | .p2dEncUnknown _ _ _ _ _ => .p2dEnc
  | .p2dDecUp _ => .p2dDec
  | .p2dDecDown _ => .p2dDec
  | .p2dDecNoKey _ => .p2dDec
  | .p2dDecDeskReset _ => .p2dDec
  | .p2dDecOne _ => .p2dDec
  | .p2dDecTwo _ => .p2dDec
  | .p2dDecThree _ => .p2dDec
  | .p2dDecResetOne _ => .p2dDec
  | .p2dDecResetTwo _ => .p2dDec
  | .p2dDecResetThree _ => .p2dDec
  | .p2dDecUnknown _ => .p2dDec
  | .d2pEncHeight _ => .d2pEnc
  | .d2pEncUnknown _ _ _ _ _ => .d2pEnc
  | .d2pDecHeight _ => .d2pDec
  | .d2pDecUnknown _ => .d2pDec
  | .cksum _ _ _ _ => .cksum
  | .build _ _ _ => .build
  | .h2b _ _ => .h2b
  | .b2h _ _ _ => .b2h
  | .validate _ => .validate
  | .isStart _ => .isStart

/-- The bytes of a unit's word (`operand_width` of the table; 56 bits where it gives none). -/
def unitWordLength : UnitId → Nat
  | .cksum => 4
  | .h2b => 2
  | .b2h => 2
  | .isStart => 1
  | .build => frameLen
  | .p2dEnc => frameLen
  | .p2dDec => frameLen
  | .d2pEnc => frameLen
  | .d2pDec => frameLen
  | .validate => frameLen

/-- The `P2D_ENC` row whose word is the frame `f`: a no-payload row fixes all 56 bits, a height row fixes start,
address, command and end, and the `Unknown` row fixes the markers alone. A height row's word stands for the height
its two bytes carry. -/
def selectP2DEncWord (f : Frame) : Instr :=
  if f = npFrame cmdUp then .p2dEncUp
  else if f = npFrame cmdDown then .p2dEncDown
  else if f = npFrame cmdNoKey then .p2dEncNoKey
  else if f = npFrame cmdDeskReset then .p2dEncDeskReset
  else if f = npFrame cmdResetOne then .p2dEncResetOne
  else if f = npFrame cmdResetTwo then .p2dEncResetTwo
  else if f = npFrame cmdResetThree then .p2dEncResetThree
  else if f.addr = addrByte ∧ f.cmd = cmdOne then .p2dEncOne (p2dHeight f)
  else if f.addr = addrByte ∧ f.cmd = cmdTwo then .p2dEncTwo (p2dHeight f)
  else if f.addr = addrByte ∧ f.cmd = cmdThree then .p2dEncThree (p2dHeight f)
  else .p2dEncUnknown f.addr f.cmd f.pa f.pb f.ck

/-- The `D2P_ENC` row whose word is the frame `f`, by the bits the table fixes. -/
def selectD2PEncWord (f : Frame) : Instr :=
  if f.addr = addrByte ∧ f.cmd = cmdHeight then .d2pEncHeight (d2pHeight f)
  else .d2pEncUnknown f.addr f.cmd f.pa f.pb f.ck

/-- The row whose output is the frame in `bytes`, where `fixed` holds of every output frame of unit `u`. -/
def decodeOutputWord (u : UnitId) (fixed : Frame → Bool) (select : Frame → Instr) (bytes : List Byte) :
    Except Reject Instr :=
  match frameOfBytes bytes with
  | none => .error (.wrongLength bytes.length)
  | some f => if fixed f then .ok (select f) else .error (.fixedBits u)

/-- The row of unit `u` whose table word is `bytes`. The offset of `H2B` and `B2H` has no bits in the table: it is
read as 0. -/
def decodeWord (u : UnitId) (bytes : List Byte) : Except Reject Instr :=
  match u with
  | .p2dEnc => decodeOutputWord .p2dEnc markersMatch selectP2DEncWord bytes
  | .d2pEnc => decodeOutputWord .d2pEnc markersMatch selectD2PEncWord bytes
  | .build =>
    decodeOutputWord .build (fun f => markersMatch f && f.addr == addrByte) (fun f => .build f.cmd f.pa f.pb) bytes
  | .p2dDec => decodeBuffer selectP2DDec bytes
  | .d2pDec => decodeBuffer selectD2PDec bytes
  | .validate => decodeBuffer Instr.validate bytes
  | .cksum =>
    match bytes with
    | [addr, cmd, pa, pb] => .ok (.cksum addr cmd pa pb)
    | _ => .error (.wrongLength bytes.length)
  | .h2b =>
    match bytes with
    | [msb, lsb] => .ok (.h2b (bytesToHeight msb lsb (.cm 0)) (.cm 0))
    | _ => .error (.wrongLength bytes.length)
  | .b2h =>
    match bytes with
    | [msb, lsb] => .ok (.b2h msb lsb (.cm 0))
    | _ => .error (.wrongLength bytes.length)
  | .isStart =>
    match bytes with
    | [b] => .ok (.isStart b)
    | _ => .error (.wrongLength bytes.length)

/-- The table word of a row with its operands, bytes in index order. -/
def encodeWord : Instr → List Byte
  | .p2dEncUp => frameBytes (npFrame cmdUp)
  | .p2dEncDown => frameBytes (npFrame cmdDown)
  | .p2dEncNoKey => frameBytes (npFrame cmdNoKey)
  | .p2dEncDeskReset => frameBytes (npFrame cmdDeskReset)
  | .p2dEncOne h => frameBytes (hlFrame cmdOne h)
  | .p2dEncTwo h => frameBytes (hlFrame cmdTwo h)
  | .p2dEncThree h => frameBytes (hlFrame cmdThree h)
  | .p2dEncResetOne => frameBytes (npFrame cmdResetOne)
  | .p2dEncResetTwo => frameBytes (npFrame cmdResetTwo)
  | .p2dEncResetThree => frameBytes (npFrame cmdResetThree)
  | .p2dEncUnknown a b c d e => frameBytes (rawFrame a b c d e)
  | .p2dDecUp f => frameBytes f
  | .p2dDecDown f => frameBytes f
  | .p2dDecNoKey f => frameBytes f
  | .p2dDecDeskReset f => frameBytes f
  | .p2dDecOne f => frameBytes f
  | .p2dDecTwo f => frameBytes f
  | .p2dDecThree f => frameBytes f
  | .p2dDecResetOne f => frameBytes f
  | .p2dDecResetTwo f => frameBytes f
  | .p2dDecResetThree f => frameBytes f
  | .p2dDecUnknown f => frameBytes f
  | .d2pEncHeight h => frameBytes (hbFrame h)
  | .d2pEncUnknown a b c d e => frameBytes (rawFrame a b c d e)
  | .d2pDecHeight f => frameBytes f
  | .d2pDecUnknown f => frameBytes f
  | .cksum addr cmd pa pb => [addr, cmd, pa, pb]
  | .build cmd pa pb => frameBytes (buildFrame cmd pa pb)
  | .h2b h off => [(heightToBytes h off).1, (heightToBytes h off).2]
  | .b2h msb lsb _ => [msb, lsb]
  | .validate f => frameBytes f
  | .isStart b => [b]

/-! ## The host's question about a table word -/

/-- The `n` bytes of the number `w`, most significant first: with `n = 7` the bytes `f[0]` to `f[6]` of the number
`F` (spec/00_scope.md 7.2). -/
def wordBytes : Nat → Nat → List Byte
  | 0, _ => []
  | n + 1, w => BitVec.ofNat 8 (w / 256 ^ n) :: wordBytes n w

/-- The unit a bare table word is taken for. The word itself does not say (R252), so this is the model's convention
for `decodeTableWord` alone, DESIGN CHOICE, assumption log entry 3; no step reads it. A frame with both markers is
read as an encoder's output, any other as a decoder's input; command byte 0 stands for Desk→Panel where the address
is 1 or the markers are wrong, and every other frame for Panel→Desk. -/
def tableUnit (nbits : Nat) (bytes : List Byte) : Option UnitId :=
  match nbits with
  | 8 => some .isStart
  | 16 => some .b2h
  | 32 => some .cksum
  | 56 =>
    match frameOfBytes bytes with
    | none => none
    | some f =>
      if markersMatch f then
        if f.addr = addrByte ∧ f.cmd = cmdHeight then some .d2pEnc else some .p2dEnc
      else if f.cmd = cmdHeight then some .d2pDec
      else some .p2dDec
  | _ => none

/-- The instruction read from a table word of `nbits` bits. -/
def decodeTableWord (nbits w : Nat) : Option Instr :=
  match tableUnit nbits (wordBytes (nbits / 8) w) with
  | none => none
  | some u =>
    match decodeWord u (wordBytes (nbits / 8) w) with
    | .ok i => some i
    | .error _ => none

end Sys2Proof
end

