-- ==== Sys2Proof/Machine/State.lean ====
section
/-! DEFINITION. The state of a run, and the reasons a step can stop. -/

namespace Sys2Proof.Machine

/-- The core itself holds no state (R20 to R27): no register, program counter, flag, control register, memory or
exception register exists, so no field stands for one. The two fields are the host's side of the interface, DESIGN
CHOICE, assumption log entry 1: a run is a sequence of operations chosen by the host (R241, R246), and its end
state is the values the host holds afterwards (spec/95_test_vectors.md section 3). -/
structure State where
  /-- The operations the host has issued and the core has not yet run, in the host's order. -/
  calls : List Call
  /-- The outputs the host has been given, oldest first. -/
  results : List Output
deriving DecidableEq, Repr

/-- The core raises no exception and every operation is total (R220), so there is no reason to fault: the type has no
constructor, nobody raises it, and a step that faults cannot be written down. -/
inductive Fault where
deriving DecidableEq, Repr

/-- Why a step gives no meaning to what it is handed. -/
inductive Refusal where
  /-- An instruction whose arm has no meaning yet; raised by `exec` alone, and by no arm of this model. Safe. -/
  | notModelled (mnemonic : String)
  /-- The call presents an input that is no value of its port's type: a frame buffer that is not 7 bytes, or a
  message tag that names no constructor (R230, R32, D12). Raised by `step`. Safe. -/
  | rejected (why : Reject)
deriving DecidableEq, Repr

/-- The machine before the host has issued anything. There is nothing to reset (R240, D6): both fields are the
model's own, empty by DESIGN CHOICE, assumption log entry 1. -/
def State.reset : State where
  calls := []
  results := []

end Sys2Proof.Machine
end

