-- ==== Sys2Proof/Machine/Ops.lean ====
section
/-! DEFINITION. The operations over State. There is no register or memory to read or write (R21, R26) and no
exception to take or return from (R220, R226). -/

namespace Sys2Proof.Machine

/-- What every operation answers. -/
abbrev Answer := Host.Outcome State Fault Refusal

/-- The end of an operation (R241, R51): its output reaches the host, and nothing else happens. -/
def deliver (out : Output) (s : State) : Answer :=
  .next { s with results := s.results ++ [out] }

/-- The operation the host has issued next, and the state in which it runs; none when the host has stopped calling
(R241). -/
def fetch (s : State) : Option (Call × State) :=
  match s.calls with
  | [] => none
  | c :: cs => some (c, { s with calls := cs })

/-- The host issues `c` as the next operation (R246: any call, at any time). -/
def present (c : Call) (s : State) : State :=
  { s with calls := c :: s.calls }

end Sys2Proof.Machine
end

