-- ==== Sys2Proof/Machine/DeskCodec.lean ====
section
/-! DEFINITION. `D2P_ENC` and `D2P_DEC`: the encode and decode operations Desk→Panel, rules R180 to R187. -/

namespace Sys2Proof.Machine

/-- R181: command 0, offset 65, high byte first. -/
def execD2pEncHeight (h : Height) (s : State) : Answer := deliver (.frame (hbFrame h)) s

/-- R182: the five bytes verbatim between the markers. -/
def execD2pEncUnknown (a b c d e : Byte) (s : State) : Answer := deliver (.frame (rawFrame a b c d e)) s

/-- R186: `Height(B2H(f[3], f[4], 65))`. -/
def execD2pDecHeight (f : Frame) (s : State) : Answer := deliver (.d2p (.height (d2pHeight f))) s

/-- R187: the bytes at indices 1 to 5 verbatim. -/
def execD2pDecUnknown (f : Frame) (s : State) : Answer :=
  deliver (.d2p (.unknown f.addr f.cmd f.pa f.pb f.ck)) s

end Sys2Proof.Machine
end

