-- ==== Sys2Proof/Machine/PanelDecode.lean ====
section
/-! DEFINITION. `P2D_DEC`: the eleven decode operations Panel→Desk, rules R160 to R171. The row was selected by the
command byte (R66); each meaning reads only the bytes that rule R50 lists for it. -/

namespace Sys2Proof.Machine

/-- R161. -/
def execP2dDecUp (_f : Frame) (s : State) : Answer := deliver (.p2d .up) s

/-- R162. -/
def execP2dDecDown (_f : Frame) (s : State) : Answer := deliver (.p2d .down) s

/-- R163. -/
def execP2dDecNoKey (_f : Frame) (s : State) : Answer := deliver (.p2d .noKey) s

/-- R164. -/
def execP2dDecDeskReset (_f : Frame) (s : State) : Answer := deliver (.p2d .deskReset) s

/-- R165: `One(B2H(f[4], f[3], 0))`. -/
def execP2dDecOne (f : Frame) (s : State) : Answer := deliver (.p2d (.one (p2dHeight f))) s

/-- R166: `Two(B2H(f[4], f[3], 0))`. -/
def execP2dDecTwo (f : Frame) (s : State) : Answer := deliver (.p2d (.two (p2dHeight f))) s

/-- R167: `Three(B2H(f[4], f[3], 0))`. -/
def execP2dDecThree (f : Frame) (s : State) : Answer := deliver (.p2d (.three (p2dHeight f))) s

/-- R168. -/
def execP2dDecResetOne (_f : Frame) (s : State) : Answer := deliver (.p2d .resetOne) s

/-- R169. -/
def execP2dDecResetTwo (_f : Frame) (s : State) : Answer := deliver (.p2d .resetTwo) s

/-- R170. -/
def execP2dDecResetThree (_f : Frame) (s : State) : Answer := deliver (.p2d .resetThree) s

/-- R171: the bytes at indices 1 to 5 verbatim. -/
def execP2dDecUnknown (f : Frame) (s : State) : Answer :=
  deliver (.p2d (.unknown f.addr f.cmd f.pa f.pb f.ck)) s

end Sys2Proof.Machine
end

