-- ==== Sys2Proof/Machine/PanelEncode.lean ====
section
/-! DEFINITION. `P2D_ENC`: the eleven encode operations Panel→Desk, rules R140 to R151. -/

namespace Sys2Proof.Machine

/-- R141: `BUILD(1, 0, 0)`. -/
def execP2dEncUp (s : State) : Answer := deliver (.frame (npFrame cmdUp)) s

/-- R142: `BUILD(2, 0, 0)`. -/
def execP2dEncDown (s : State) : Answer := deliver (.frame (npFrame cmdDown)) s

/-- R143: `BUILD(3, 0, 0)`. -/
def execP2dEncNoKey (s : State) : Answer := deliver (.frame (npFrame cmdNoKey)) s

/-- R144: `BUILD(4, 0, 0)`. -/
def execP2dEncDeskReset (s : State) : Answer := deliver (.frame (npFrame cmdDeskReset)) s

/-- R145: command 6, offset 0, low byte first. -/
def execP2dEncOne (h : Height) (s : State) : Answer := deliver (.frame (hlFrame cmdOne h)) s

/-- R146: command 7, offset 0, low byte first. -/
def execP2dEncTwo (h : Height) (s : State) : Answer := deliver (.frame (hlFrame cmdTwo h)) s

/-- R147: command 8, offset 0, low byte first. -/
def execP2dEncThree (h : Height) (s : State) : Answer := deliver (.frame (hlFrame cmdThree h)) s

/-- R148: `BUILD(10, 0, 0)`. -/
def execP2dEncResetOne (s : State) : Answer := deliver (.frame (npFrame cmdResetOne)) s

/-- R149: `BUILD(11, 0, 0)`. -/
def execP2dEncResetTwo (s : State) : Answer := deliver (.frame (npFrame cmdResetTwo)) s

/-- R150: `BUILD(12, 0, 0)`. -/
def execP2dEncResetThree (s : State) : Answer := deliver (.frame (npFrame cmdResetThree)) s

/-- R151: the five bytes verbatim between the markers. -/
def execP2dEncUnknown (a b c d e : Byte) (s : State) : Answer := deliver (.frame (rawFrame a b c d e)) s

end Sys2Proof.Machine
end

