-- ==== Sys2Proof/Machine/Utility.lean ====
section
/-! DEFINITION. The six leaf units: `CKSUM`, `BUILD`, `H2B`, `B2H`, `VALIDATE`, `IS_START`. -/

namespace Sys2Proof.Machine

/-- R100. -/
def execCksum (addr cmd pa pb : Byte) (s : State) : Answer := deliver (.checksum (checksum addr cmd pa pb)) s

/-- R102. -/
def execBuild (cmd pa pb : Byte) (s : State) : Answer := deliver (.frame (buildFrame cmd pa pb)) s

/-- R122 to R124. -/
def execH2b (h off : Height) (s : State) : Answer :=
  deliver (.bytePair (heightToBytes h off).1 (heightToBytes h off).2) s

/-- R125. -/
def execB2h (msb lsb : Byte) (off : Height) (s : State) : Answer :=
  deliver (.height (bytesToHeight msb lsb off)) s

/-- R200. -/
def execValidate (f : Frame) (s : State) : Answer := deliver (.bit (markersMatch f)) s

/-- R202. -/
def execIsStart (b : Byte) (s : State) : Answer := deliver (.bit (isStartMarker b)) s

end Sys2Proof.Machine
end

