-- ==== Sys2Proof/Machine/Dispatch.lean ====
section
/-! DEFINITION. The meaning of every instruction: one arm per row of spec/opcode_table.json. -/

namespace Sys2Proof.Machine

/-- What operation `i` does. Which unit runs it was settled when the call was decoded. -/
def exec (i : Instr) (s : State) : Host.Outcome State Fault Refusal :=
  match i with
  | .p2dEncUp => Sys2Proof.Machine.execP2dEncUp s
  | .p2dDecUp f => Sys2Proof.Machine.execP2dDecUp f s
  | .p2dEncDown => Sys2Proof.Machine.execP2dEncDown s
  | .p2dDecDown f => Sys2Proof.Machine.execP2dDecDown f s
  | .p2dEncNoKey => Sys2Proof.Machine.execP2dEncNoKey s
  | .p2dDecNoKey f => Sys2Proof.Machine.execP2dDecNoKey f s
  | .p2dEncDeskReset => Sys2Proof.Machine.execP2dEncDeskReset s
  | .p2dDecDeskReset f => Sys2Proof.Machine.execP2dDecDeskReset f s
  | .p2dEncOne h => Sys2Proof.Machine.execP2dEncOne h s
  | .p2dDecOne f => Sys2Proof.Machine.execP2dDecOne f s
  | .p2dEncTwo h => Sys2Proof.Machine.execP2dEncTwo h s
  | .p2dDecTwo f => Sys2Proof.Machine.execP2dDecTwo f s
  | .p2dEncThree h => Sys2Proof.Machine.execP2dEncThree h s
  | .p2dDecThree f => Sys2Proof.Machine.execP2dDecThree f s
  | .p2dEncResetOne => Sys2Proof.Machine.execP2dEncResetOne s
  | .p2dDecResetOne f => Sys2Proof.Machine.execP2dDecResetOne f s
  | .p2dEncResetTwo => Sys2Proof.Machine.execP2dEncResetTwo s
  | .p2dDecResetTwo f => Sys2Proof.Machine.execP2dDecResetTwo f s
  | .p2dEncResetThree => Sys2Proof.Machine.execP2dEncResetThree s
  | .p2dDecResetThree f => Sys2Proof.Machine.execP2dDecResetThree f s
  | .p2dEncUnknown a b c d e => Sys2Proof.Machine.execP2dEncUnknown a b c d e s
  | .p2dDecUnknown f => Sys2Proof.Machine.execP2dDecUnknown f s
  | .d2pEncHeight h => Sys2Proof.Machine.execD2pEncHeight h s
  | .d2pDecHeight f => Sys2Proof.Machine.execD2pDecHeight f s
  | .d2pEncUnknown a b c d e => Sys2Proof.Machine.execD2pEncUnknown a b c d e s
  | .d2pDecUnknown f => Sys2Proof.Machine.execD2pDecUnknown f s
  | .cksum addr cmd pa pb => Sys2Proof.Machine.execCksum addr cmd pa pb s
  | .build cmd pa pb => Sys2Proof.Machine.execBuild cmd pa pb s
  | .h2b h off => Sys2Proof.Machine.execH2b h off s
  | .b2h msb lsb off => Sys2Proof.Machine.execB2h msb lsb off s
  | .validate f => Sys2Proof.Machine.execValidate f s
  | .isStart b => Sys2Proof.Machine.execIsStart b s

end Sys2Proof.Machine
end

