-- ==== Sys2Proof/Machine/Step.lean ====
section
/-! DEFINITION. One step: the host's next call runs as one atomic operation. -/

namespace Sys2Proof.Machine

/-- One operation (R51: atomic). With no call issued nothing happens (R241: a run ends when the host stops calling; the
core has no halt; DESIGN CHOICE, assumption log entry 4). A call whose input is no value of the port's type is refused
by name (R230). -/
def step (s : State) : Host.Outcome State Fault Refusal :=
  match fetch s with
  | none => .next s
  | some (c, s') =>
    match decode c with
    | .ok i => exec i s'
    | .error why => .refused (.rejected why)

/-- `s` with the instruction of a table word issued as the host's next call, so that `step` runs exactly it. A word
that is no instruction leaves the state as it is. Programs come from outside: assumption log entry 4. -/
def State.withFetchWord (s : State) (nbits w : Nat) : State :=
  match decodeTableWord nbits w with
  | some i => present (encode i) s
  | none => s

end Sys2Proof.Machine
end

