-- ==== Sys2Proof/Safety.lean ====
section
/-! DEFINITION. The terms in which claims about the codec are made: what one operation answers, which calls can be
presented, which results a sound run shows, which frames are canonical. -/

namespace Sys2Proof.Machine

/-- What the host gets for `c` as the only operation ever issued (R52); none if `c` is refused. -/
def answer (c : Call) : Option Output :=
  match step { calls := [c], results := [] } with
  | .next t => t.results.head?
  | .fault _ => none
  | .refused _ => none

/-- The inputs that are values of the port types (R28 to R30, R230): every call but a buffer that is not 7 bytes and a
tag that names no constructor. -/
def presentable : Call → Bool
  | .p2dEncPort p => !(p.kind ∈ ([0, 5, 9, 13, 14] : List (BitVec 4)))
  | .p2dDecBuffer bytes => bytes.length == 7
  | .d2pDecBuffer bytes => bytes.length == 7
  | .validateBuffer bytes => bytes.length == 7
  | _ => true

/-- A height on the millimetre grid, within the byte range, of the direction with zero offset `off` (P1 of
spec/95_test_vectors.md, R126). -/
def onGrid (h : Height) (off : Cm) : Prop := ∃ n : Nat, n < 65536 ∧ h = .cm ((n : Cm) / 10 + off)

/-- Out of range (R124, D5): not a whole `net_mm` of 16 bits, or no number at all. -/
def outOfRange : Height → Height → Prop
  | .cm h, .cm off => (h - off) * 10 < 0 ∨ 65536 ≤ (h - off) * 10
  | .cm _, .nonFinite _ => True
  | .nonFinite _, _ => True

/-- `(msb, lsb)` are the bytes of `h` above the offset `off`: in range the quotient and the remainder by 256 of the
whole millimetres (R122), out of range the free value of rule R124. -/
def bytesOfHeight (h : Height) (off : Cm) (msb lsb : Byte) : Prop :=
  match h with
  | .cm q =>
    if 0 ≤ (q - off) * 10 ∧ (q - off) * 10 < 65536 then
      msb = BitVec.ofInt 8 (⌊(q - off) * 10⌋ / 256) ∧ lsb = BitVec.ofInt 8 (⌊(q - off) * 10⌋ % 256)
    else (msb, lsb) = Config.oorBytes (.cm q) (.cm off)
  | .nonFinite n => (msb, lsb) = Config.oorBytes (.nonFinite n) (.cm off)

/-- `k` is the height that comes back when `h` is encoded and decoded with the offset `off` (R126, R175, R190): in range
`h` without its fraction of a millimetre, out of range the height of the two free bytes. -/
def heightAfterTrip (h : Height) (off k : Cm) : Prop :=
  match h with
  | .cm q =>
    if 0 ≤ (q - off) * 10 ∧ (q - off) * 10 < 65536 then k = off + (⌊(q - off) * 10⌋ : Cm) / 10
    else k = (256 * ((Config.oorBytes (.cm q) (.cm off)).1.toNat : Cm) +
      ((Config.oorBytes (.cm q) (.cm off)).2.toNat : Cm)) / 10 + off
  | .nonFinite n =>
    k = (256 * ((Config.oorBytes (.nonFinite n) (.cm off)).1.toNat : Cm) +
      ((Config.oorBytes (.nonFinite n) (.cm off)).2.toNat : Cm)) / 10 + off

/-- A known Panel→Desk message whose height, if it has one, is on the grid (R175). -/
def p2dExact : P2DMsg → Prop
  | .one h => onGrid h 0
  | .two h => onGrid h 0
  | .three h => onGrid h 0
  | .unknown _ _ _ _ _ => False
  | _ => True

/-- Is the message the catch-all variant (R29)? -/
def p2dIsUnknown : P2DMsg → Bool
  | .unknown _ _ _ _ _ => true
  | _ => false

/-- Structurally valid (R200): both markers, nothing else. -/
def structurallyValid (f : Frame) : Prop := f.start = 104 ∧ f.endMark = 22

/-- A frame of the frame builder's shape (R71): markers, address 1, checksum over the four interior bytes. -/
def builderShaped (f : Frame) : Prop :=
  structurallyValid f ∧ f.addr = 1 ∧ f.ck.toNat = (1 + f.cmd.toNat + f.pa.toNat + f.pb.toNat) % 256

/-- Canonical Panel→Desk (R71). -/
def canonicalP2D (f : Frame) : Prop :=
  builderShaped f ∧
    ((f.cmd ∈ ([1, 2, 3, 4, 10, 11, 12] : List Byte) ∧ f.pa = 0 ∧ f.pb = 0) ∨ f.cmd ∈ ([6, 7, 8] : List Byte))

/-- Canonical Desk→Panel (R71). -/
def canonicalD2P (f : Frame) : Prop := builderShaped f ∧ f.cmd = 0

/-- What a Panel→Desk decode can answer (R165 to R167, R171): heights on the grid, and in `Unknown` a command byte that
is not in the table. -/
def p2dDecodable : P2DMsg → Prop
  | .one h => onGrid h 0
  | .two h => onGrid h 0
  | .three h => onGrid h 0
  | .unknown _ b _ _ _ => b ∉ ([1, 2, 3, 4, 6, 7, 8, 10, 11, 12] : List Byte)
  | _ => True

/-- What a Desk→Panel decode can answer (R186, R187). -/
def d2pDecodable : D2PMsg → Prop
  | .height h => onGrid h 65
  | .unknown _ b _ _ _ => b ≠ 0

/-- Every frame the host has been given is structurally valid (R103, R204). -/
def framesSound (s : State) : Prop := ∀ g, Output.frame g ∈ s.results → structurallyValid g

/-- Every message the host has been given is one a decode can answer. -/
def messagesSound (s : State) : Prop :=
  (∀ m, Output.p2d m ∈ s.results → p2dDecodable m) ∧ (∀ m, Output.d2p m ∈ s.results → d2pDecodable m)

/-- The instructions that their table word determines: the offset has no bits in the table, an out-of-range height or
a fraction of a millimetre leaves no trace in a frame, and an `Unknown` may have the word of another row. -/
def wordDetermined : Instr → Prop
  | .p2dEncOne h => onGrid h 0
  | .p2dEncTwo h => onGrid h 0
  | .p2dEncThree h => onGrid h 0
  | .p2dEncUnknown a b c d e =>
    ¬ (a = 1 ∧ b ∈ ([6, 7, 8] : List Byte)) ∧
      ¬ (a = 1 ∧ b ∈ ([1, 2, 3, 4, 10, 11, 12] : List Byte) ∧ c = 0 ∧ d = 0 ∧ e.toNat = 1 + b.toNat)
  | .d2pEncHeight h => onGrid h 65
  | .d2pEncUnknown a b _ _ _ => ¬ (a = 1 ∧ b = 0)
  | .h2b h off => onGrid h 0 ∧ off = .cm 0
  | .b2h _ _ off => off = .cm 0
  | _ => True

end Sys2Proof.Machine
end

