-- ==== Sys2Proof/Certificates/Slice0/Obligations.lean ====
section
/-! DEFINITION. The statements for the provers. Values are written out from the spec's rules, not through the model's
own helpers, wherever a rule gives them. The output of an operation is shown as the entry it appends to `results`;
that the host's side is held in the two fields of State is the model's choice, assumption log entry 1. Heights are
exact rationals, or a NaN or infinity of the open format HEIGHT_FMT: the spec's decisions D3 and D5, assumption log
entry 6. -/

open Sys2Proof Sys2Proof.Machine

/-! ## What each instruction does: it completes, with this output, and changes nothing else -/

/-- R141 to R144, R148 to R150: the seven no-payload commands encode to these constant frames. -/
def Obligations.P2dEncodeNoPayloadFrames : Prop :=
  ∀ s : State,
    exec .p2dEncUp s = .next { calls := s.calls, results := s.results ++ [.frame ⟨104, 1, 1, 0, 0, 2, 22⟩] } ∧
    exec .p2dEncDown s = .next { calls := s.calls, results := s.results ++ [.frame ⟨104, 1, 2, 0, 0, 3, 22⟩] } ∧
    exec .p2dEncNoKey s = .next { calls := s.calls, results := s.results ++ [.frame ⟨104, 1, 3, 0, 0, 4, 22⟩] } ∧
    exec .p2dEncDeskReset s = .next { calls := s.calls, results := s.results ++ [.frame ⟨104, 1, 4, 0, 0, 5, 22⟩] } ∧
    exec .p2dEncResetOne s = .next { calls := s.calls, results := s.results ++ [.frame ⟨104, 1, 10, 0, 0, 11, 22⟩] } ∧
    exec .p2dEncResetTwo s = .next { calls := s.calls, results := s.results ++ [.frame ⟨104, 1, 11, 0, 0, 12, 22⟩] } ∧
    exec .p2dEncResetThree s = .next { calls := s.calls, results := s.results ++ [.frame ⟨104, 1, 12, 0, 0, 13, 22⟩] }

/-- 42_panel_to_desk section 1 and 41_height section 2: the three preset commands, low byte of the millimetre count
first, offset 0; out of range the two bytes are the free value of the spec's decision D4 (assumption log entry 2), and
the rest of the frame is as always. That a NaN and an infinity are out of range is the spec's decision D5 (entry 6). -/
def Obligations.P2dEncodePresetFrames : Prop :=
  ∀ (s : State) (h : Height) (msb lsb : Byte), bytesOfHeight h 0 msb lsb →
    exec (.p2dEncOne h) s = .next { calls := s.calls, results := s.results ++
      [.frame ⟨104, 1, 6, lsb, msb, BitVec.ofNat 8 ((7 + lsb.toNat + msb.toNat) % 256), 22⟩] } ∧
    exec (.p2dEncTwo h) s = .next { calls := s.calls, results := s.results ++
      [.frame ⟨104, 1, 7, lsb, msb, BitVec.ofNat 8 ((8 + lsb.toNat + msb.toNat) % 256), 22⟩] } ∧
    exec (.p2dEncThree h) s = .next { calls := s.calls, results := s.results ++
      [.frame ⟨104, 1, 8, lsb, msb, BitVec.ofNat 8 ((9 + lsb.toNat + msb.toNat) % 256), 22⟩] }

/-- `Unknown` of either direction puts its five bytes between the markers, nothing recomputed; the frame decodes as
`Unknown` again exactly when its command byte is not a known one of that direction, which 42_panel_to_desk section 3
and 43_desk_to_panel section 3 mark as derived. -/
def Obligations.UnknownEncodedVerbatim : Prop :=
  ∀ (s : State) (a b c d e : Byte),
    exec (.p2dEncUnknown a b c d e) s =
      .next { calls := s.calls, results := s.results ++ [.frame ⟨104, a, b, c, d, e, 22⟩] } ∧
    exec (.d2pEncUnknown a b c d e) s =
      .next { calls := s.calls, results := s.results ++ [.frame ⟨104, a, b, c, d, e, 22⟩] } ∧
    (decode (.p2dDec ⟨104, a, b, c, d, e, 22⟩) = .ok (.p2dDecUnknown ⟨104, a, b, c, d, e, 22⟩) ↔
      b ∉ ([1, 2, 3, 4, 6, 7, 8, 10, 11, 12] : List Byte)) ∧
    (decode (.d2pDec ⟨104, a, b, c, d, e, 22⟩) = .ok (.d2pDecUnknown ⟨104, a, b, c, d, e, 22⟩) ↔ b ≠ 0)

/-- R161 to R164, R168 to R170: a frame with one of these command bytes runs that row, and the row answers that
message, whatever the other six bytes are. -/
def Obligations.P2dDecodeNoPayloadMessages : Prop :=
  ∀ (s : State) (f : Frame),
    exec (.p2dDecUp f) s = .next { calls := s.calls, results := s.results ++ [.p2d .up] } ∧
    exec (.p2dDecDown f) s = .next { calls := s.calls, results := s.results ++ [.p2d .down] } ∧
    exec (.p2dDecNoKey f) s = .next { calls := s.calls, results := s.results ++ [.p2d .noKey] } ∧
    exec (.p2dDecDeskReset f) s = .next { calls := s.calls, results := s.results ++ [.p2d .deskReset] } ∧
    exec (.p2dDecResetOne f) s = .next { calls := s.calls, results := s.results ++ [.p2d .resetOne] } ∧
    exec (.p2dDecResetTwo f) s = .next { calls := s.calls, results := s.results ++ [.p2d .resetTwo] } ∧
    exec (.p2dDecResetThree f) s = .next { calls := s.calls, results := s.results ++ [.p2d .resetThree] } ∧
    (decode (.p2dDec f) = .ok (.p2dDecUp f) ↔ f.cmd = 1) ∧
    (decode (.p2dDec f) = .ok (.p2dDecDown f) ↔ f.cmd = 2) ∧
    (decode (.p2dDec f) = .ok (.p2dDecNoKey f) ↔ f.cmd = 3) ∧
    (decode (.p2dDec f) = .ok (.p2dDecDeskReset f) ↔ f.cmd = 4) ∧
    (decode (.p2dDec f) = .ok (.p2dDecResetOne f) ↔ f.cmd = 10) ∧
    (decode (.p2dDec f) = .ok (.p2dDecResetTwo f) ↔ f.cmd = 11) ∧
    (decode (.p2dDec f) = .ok (.p2dDecResetThree f) ↔ f.cmd = 12)

/-- R165 to R167: the preset commands decode the height from `f[4]` (msb) and `f[3]` (lsb) with offset 0. -/
def Obligations.P2dDecodePresetMessages : Prop :=
  ∀ (s : State) (f : Frame) (h : Height),
    h = .cm ((256 * (f.pb.toNat : Cm) + (f.pa.toNat : Cm)) / 10) →
    exec (.p2dDecOne f) s = .next { calls := s.calls, results := s.results ++ [.p2d (.one h)] } ∧
    exec (.p2dDecTwo f) s = .next { calls := s.calls, results := s.results ++ [.p2d (.two h)] } ∧
    exec (.p2dDecThree f) s = .next { calls := s.calls, results := s.results ++ [.p2d (.three h)] } ∧
    (decode (.p2dDec f) = .ok (.p2dDecOne f) ↔ f.cmd = 6) ∧
    (decode (.p2dDec f) = .ok (.p2dDecTwo f) ↔ f.cmd = 7) ∧
    (decode (.p2dDec f) = .ok (.p2dDecThree f) ↔ f.cmd = 8)

/-- R171: every other command byte decodes to `Unknown` with the bytes at indices 1 to 5. -/
def Obligations.P2dDecodeUnknownVerbatim : Prop :=
  ∀ (s : State) (f : Frame),
    exec (.p2dDecUnknown f) s =
      .next { calls := s.calls, results := s.results ++ [.p2d (.unknown f.addr f.cmd f.pa f.pb f.ck)] } ∧
    (decode (.p2dDec f) = .ok (.p2dDecUnknown f) ↔ f.cmd ∈ ([0, 5, 9] : List Byte) ∨ 13 ≤ f.cmd.toNat)

/-- 43_desk_to_panel section 1 and 41_height section 2: `Height` is command 0, offset 65, high byte first; out of range
the two bytes are the free value of the spec's decision D4 (assumption log entry 2). That a NaN and an infinity are out
of range is the spec's decision D5 (entry 6). -/
def Obligations.D2pEncodeHeightFrame : Prop :=
  ∀ (s : State) (h : Height) (msb lsb : Byte), bytesOfHeight h 65 msb lsb →
    exec (.d2pEncHeight h) s = .next { calls := s.calls, results := s.results ++
      [.frame ⟨104, 1, 0, msb, lsb, BitVec.ofNat 8 ((1 + msb.toNat + lsb.toNat) % 256), 22⟩] }

/-- R186 and R187: command byte 0 decodes to `Height`, every other one to `Unknown`. -/
def Obligations.D2pDecodeMessages : Prop :=
  ∀ (s : State) (f : Frame),
    exec (.d2pDecHeight f) s = .next { calls := s.calls, results := s.results ++
      [.d2p (.height (.cm ((256 * (f.pa.toNat : Cm) + (f.pb.toNat : Cm)) / 10 + 65)))] } ∧
    exec (.d2pDecUnknown f) s =
      .next { calls := s.calls, results := s.results ++ [.d2p (.unknown f.addr f.cmd f.pa f.pb f.ck)] } ∧
    (decode (.d2pDec f) = .ok (.d2pDecHeight f) ↔ f.cmd = 0) ∧
    (decode (.d2pDec f) = .ok (.d2pDecUnknown f) ↔ f.cmd ≠ 0)

/-- R100: the checksum is the sum of the four bytes modulo 256. -/
def Obligations.ChecksumIsSumModulo256 : Prop :=
  ∀ (s : State) (addr cmd pa pb : Byte), ∃ ck : Byte,
    exec (.cksum addr cmd pa pb) s = .next { calls := s.calls, results := s.results ++ [.checksum ck] } ∧
    ck.toNat = (addr.toNat + cmd.toNat + pa.toNat + pb.toNat) % 256

/-- R102: the envelope around a command byte and two payload bytes. -/
def Obligations.BuildWritesTheEnvelope : Prop :=
  ∀ (s : State) (cmd pa pb : Byte), ∃ ck : Byte,
    exec (.build cmd pa pb) s =
      .next { calls := s.calls, results := s.results ++ [.frame ⟨104, 1, cmd, pa, pb, ck, 22⟩] } ∧
    ck.toNat = (1 + cmd.toNat + pa.toNat + pb.toNat) % 256

/-- R122 and R123: in range, `msb` is the floor of `net_mm / 256` and `lsb` the floor of the remainder; together they
are the whole millimetres, the fraction dropped. -/
def Obligations.HeightToBytesInRange : Prop :=
  ∀ (s : State) (h off : Cm), 0 ≤ (h - off) * 10 → (h - off) * 10 < 65536 →
    ∃ msb lsb : Byte,
      exec (.h2b (.cm h) (.cm off)) s = .next { calls := s.calls, results := s.results ++ [.bytePair msb lsb] } ∧
      (msb.toNat : Int) = ⌊(h - off) * 10 / 256⌋ ∧
      (lsb.toNat : Int) = ⌊(h - off) * 10 - (msb.toNat : Cm) * 256⌋ ∧
      256 * (msb.toNat : Int) + (lsb.toNat : Int) = ⌊(h - off) * 10⌋

/-- Out of range the operation completes with the two free bytes of `OOR_BYTES(h, off)`, and the encoders place those
bytes and the checksum over them in a frame as always. The spec marks that the bytes are a function of the input alone
as its own decision D4, and that a NaN and an infinity are out of range as D5; the free value is assumption log
entry 2, and an offset that is no number is entry 12. -/
def Obligations.HeightToBytesOutOfRange : Prop :=
  ∀ (s : State) (h off : Height) (msb lsb : Byte), outOfRange h off →
    (msb, lsb) = Config.oorBytes h off →
    exec (.h2b h off) s = .next { calls := s.calls, results := s.results ++ [.bytePair msb lsb] } ∧
    (off = .cm 0 → ∃ ck : Byte, ck.toNat = (7 + lsb.toNat + msb.toNat) % 256 ∧
      exec (.p2dEncOne h) s =
        .next { calls := s.calls, results := s.results ++ [.frame ⟨104, 1, 6, lsb, msb, ck, 22⟩] }) ∧
    (off = .cm 65 → ∃ ck : Byte, ck.toNat = (1 + msb.toNat + lsb.toNat) % 256 ∧
      exec (.d2pEncHeight h) s =
        .next { calls := s.calls, results := s.results ++ [.frame ⟨104, 1, 0, msb, lsb, ck, 22⟩] })

/-- R125: exact division by ten, total; the result is at most 6553.5 cm above the offset. -/
def Obligations.BytesToHeightIsExact : Prop :=
  ∀ (s : State) (msb lsb : Byte) (off : Cm), ∃ h : Cm,
    exec (.b2h msb lsb (.cm off)) s = .next { calls := s.calls, results := s.results ++ [.height (.cm h)] } ∧
    h = (256 * (msb.toNat : Cm) + (lsb.toNat : Cm)) / 10 + off ∧
    off ≤ h ∧ h ≤ off + 65535 / 10 ∧ 0 ≤ (h - off) * 10 ∧ (h - off) * 10 < 65536

/-- R200 and R201: `VALIDATE` is 1 exactly for the two markers, equally as match and mask on `F`; no other byte counts. -/
def Obligations.ValidateTestsTheMarkersAlone : Prop :=
  ∀ (s : State) (f : Frame), ∃ v : Bit,
    exec (.validate f) s = .next { calls := s.calls, results := s.results ++ [.bit v] } ∧
    (v = true ↔ f.start = 104 ∧ f.endMark = 22) ∧
    (v = true ↔ frameBits f &&& 0xFF0000000000FF#56 = 0x68000000000016#56)

/-- R202: `IS_START` is 1 for the byte 104 and 0 for the other 255. -/
def Obligations.IsStartTestsTheStartMarker : Prop :=
  ∀ (s : State) (b : Byte), ∃ v : Bit,
    exec (.isStart b) s = .next { calls := s.calls, results := s.results ++ [.bit v] } ∧ (v = true ↔ b.toNat = 104)

/-! ## Frames: what every instruction leaves alone -/

/-- R20 (with R21 to R24, R51): whatever the instruction, its one effect is one output that depends on its operands
alone; the pending calls and every earlier output stay. -/
def Obligations.EveryInstructionIsAPureFunction : Prop :=
  ∀ i : Instr, ∃ out : Output, ∀ s : State,
    exec i s = .next { calls := s.calls, results := s.results ++ [out] }

/-- 20_memory section 4 and 30_encoding section 2: which bytes of a frame have influence. That decode does not read the
markers, or a no-payload decode the payload, is the spec's own reading, decisions D9 and D10. -/
def Obligations.UnreadFrameBytesHaveNoInfluence : Prop :=
  ∀ f g : Frame,
    (f.cmd = g.cmd → f.cmd ∈ ([1, 2, 3, 4, 10, 11, 12] : List Byte) → answer (.p2dDec f) = answer (.p2dDec g)) ∧
    (f.cmd = g.cmd → f.pa = g.pa → f.pb = g.pb → f.cmd ∈ ([6, 7, 8] : List Byte) →
      answer (.p2dDec f) = answer (.p2dDec g)) ∧
    (f.cmd = g.cmd → f.pa = g.pa → f.pb = g.pb → f.cmd = 0 → answer (.d2pDec f) = answer (.d2pDec g)) ∧
    (f.addr = g.addr → f.cmd = g.cmd → f.pa = g.pa → f.pb = g.pb → f.ck = g.ck →
      answer (.p2dDec f) = answer (.p2dDec g) ∧ answer (.d2pDec f) = answer (.d2pDec g)) ∧
    (f.start = g.start → f.endMark = g.endMark → answer (.validate f) = answer (.validate g))

/-- R6: the checksum is computed on encode, and no answer depends on it on decode. A known command and the validator do
not see it; for an unrecognised command byte it is copied into `Unknown`, and nothing else changes. -/
def Obligations.ChecksumIsNeverVerified : Prop :=
  (∀ (m : P2DMsg) (g : Frame), p2dIsUnknown m = false → answer (.p2dEnc m) = some (.frame g) →
    g.ck.toNat = (g.addr.toNat + g.cmd.toNat + g.pa.toNat + g.pb.toNat) % 256) ∧
  (∀ (h : Height) (g : Frame), answer (.d2pEnc (.height h)) = some (.frame g) →
    g.ck.toNat = (g.addr.toNat + g.cmd.toNat + g.pa.toNat + g.pb.toNat) % 256) ∧
  ∀ (f : Frame) (ck : Byte),
    (f.cmd ∈ ([1, 2, 3, 4, 6, 7, 8, 10, 11, 12] : List Byte) →
      answer (.p2dDec { f with ck := ck }) = answer (.p2dDec f)) ∧
    (f.cmd ∉ ([1, 2, 3, 4, 6, 7, 8, 10, 11, 12] : List Byte) →
      answer (.p2dDec { f with ck := ck }) = some (.p2d (.unknown f.addr f.cmd f.pa f.pb ck))) ∧
    (f.cmd = 0 → answer (.d2pDec { f with ck := ck }) = answer (.d2pDec f)) ∧
    (f.cmd ≠ 0 → answer (.d2pDec { f with ck := ck }) = some (.d2p (.unknown f.addr f.cmd f.pa f.pb ck))) ∧
    answer (.validate { f with ck := ck }) = answer (.validate f)

/-- The frame index space is 0 to 6 (20_memory section 1) and no other index exists; `f[i]` is the byte
`F[55-8*i : 48-8*i]`, a numbering that is the spec's own choice (00_scope 7.2, decision D7), and index order is the order
on the link, which 20_memory section 2 marks as derived (assumption log entry 11). -/
def Obligations.FrameIndexSpaceIsSevenBytes : Prop :=
  ∀ (f : Frame) (i : Nat),
    (i < 7 → frameByte f i = some ((frameBits f).extractLsb' (48 - 8 * i) 8) ∧ (frameBytes f)[i]? = frameByte f i) ∧
    (7 ≤ i → frameByte f i = none) ∧
    frameOfBits (frameBits f) = f

/-! ## Decoding -/

/-- The instructions read from a few words of spec/opcode_table.json, written out from their patterns. -/
def Obligations.TableWordsDecode : Prop :=
  decodeTableWord 56 0x68010100000216 = some .p2dEncUp ∧
  decodeTableWord 56 0x68010C00000D16 = some .p2dEncResetThree ∧
  decodeTableWord 56 0x00000400000000 = some (.p2dDecDeskReset ⟨0, 0, 4, 0, 0, 0, 0⟩) ∧
  decodeTableWord 56 0x000006FD020000 = some (.p2dDecOne ⟨0, 0, 6, 253, 2, 0, 0⟩) ∧
  decodeTableWord 56 0x0000000005FF00 = some (.d2pDecHeight ⟨0, 0, 0, 0, 5, 255, 0⟩) ∧
  decodeTableWord 56 0x68020907070016 = some (.p2dEncUnknown 2 9 7 7 0) ∧
  decodeTableWord 32 0x01068A02 = some (.cksum 1 6 138 2) ∧
  decodeTableWord 8 0x68 = some (.isStart 104)

/-- R66: the row a frame selects is read off bits 39:32 of `F` alone, by the match and mask of the table; the two
default rows are the rest. -/
def Obligations.SelectionIsTheTableMatchAndMask : Prop :=
  ∀ f : Frame,
    (decode (.p2dDec f) = .ok (.p2dDecUp f) ↔ frameBits f &&& 0x0000FF00000000#56 = 0x00000100000000#56) ∧
    (decode (.p2dDec f) = .ok (.p2dDecDown f) ↔ frameBits f &&& 0x0000FF00000000#56 = 0x00000200000000#56) ∧
    (decode (.p2dDec f) = .ok (.p2dDecNoKey f) ↔ frameBits f &&& 0x0000FF00000000#56 = 0x00000300000000#56) ∧
    (decode (.p2dDec f) = .ok (.p2dDecDeskReset f) ↔ frameBits f &&& 0x0000FF00000000#56 = 0x00000400000000#56) ∧
    (decode (.p2dDec f) = .ok (.p2dDecOne f) ↔ frameBits f &&& 0x0000FF00000000#56 = 0x00000600000000#56) ∧
    (decode (.p2dDec f) = .ok (.p2dDecTwo f) ↔ frameBits f &&& 0x0000FF00000000#56 = 0x00000700000000#56) ∧
    (decode (.p2dDec f) = .ok (.p2dDecThree f) ↔ frameBits f &&& 0x0000FF00000000#56 = 0x00000800000000#56) ∧
    (decode (.p2dDec f) = .ok (.p2dDecResetOne f) ↔ frameBits f &&& 0x0000FF00000000#56 = 0x00000A00000000#56) ∧
    (decode (.p2dDec f) = .ok (.p2dDecResetTwo f) ↔ frameBits f &&& 0x0000FF00000000#56 = 0x00000B00000000#56) ∧
    (decode (.p2dDec f) = .ok (.p2dDecResetThree f) ↔ frameBits f &&& 0x0000FF00000000#56 = 0x00000C00000000#56) ∧
    (decode (.p2dDec f) = .ok (.p2dDecUnknown f) ↔ ∀ c ∈ ([1, 2, 3, 4, 6, 7, 8, 10, 11, 12] : List Byte),
      frameBits f &&& 0x0000FF00000000#56 ≠ c.setWidth 56 <<< 32) ∧
    (decode (.d2pDec f) = .ok (.d2pDecHeight f) ↔ frameBits f &&& 0x0000FF00000000#56 = 0x00000000000000#56) ∧
    (decode (.d2pDec f) = .ok (.d2pDecUnknown f) ↔ frameBits f &&& 0x0000FF00000000#56 ≠ 0x00000000000000#56)

/-- 30_encoding section 6, which the spec marks as derived from R63 to R69: exactly one row of a direction applies
to every frame. -/
def Obligations.ExactlyOneDecodeRowApplies : Prop :=
  ∀ f : Frame,
    (∃! i : Instr, i.wellFormed = true ∧ encode i = .p2dDec f) ∧
    (∃! i : Instr, i.wellFormed = true ∧ encode i = .d2pDec f)

/-- Decoding the call of a well-formed instruction gives it back, for every instruction and every operand, an
out-of-range height and a non-canonical frame included. -/
def Obligations.DecodeOfEncodeIsTheInstruction : Prop :=
  ∀ i : Instr, i.wellFormed = true → decode (encode i) = .ok i

/-- Decoding gives well-formed instructions only, and the typed call of the result is the same operation. -/
def Obligations.DecodedInstructionsAreWellFormed : Prop :=
  ∀ (c : Call) (i : Instr), decode c = .ok i → i.wellFormed = true ∧ answer (encode i) = answer c

/-- The table word of an instruction that its word determines decodes to that instruction, for its unit. -/
def Obligations.TableWordRoundTrip : Prop :=
  ∀ i : Instr, i.wellFormed = true → wordDetermined i → decodeWord (unitOf i) (encodeWord i) = .ok i

/-- 10_state section 3, reference coding, the spec's own decision D2: a message crosses a port in the reference coding
unchanged, whatever stands in the fields without meaning, and an encoder fed the port does what it does with the
message. A height crosses it if its word stands for it in HEIGHT_FMT (assumption log entries 6 and 8). -/
def Obligations.ReferenceCodingCarriesTheMessage : Prop :=
  (∀ (word : Height → HeightWord) (free : P2DPort) (m : P2DMsg),
    (∀ h, m = .one h ∨ m = .two h ∨ m = .three h → Config.heightFmt (word h) = h) →
    p2dOfPort (p2dToPort word free m) = some m ∧
    answer (.p2dEncPort (p2dToPort word free m)) = answer (.p2dEnc m)) ∧
  (∀ (word : Height → HeightWord) (free : D2PPort) (m : D2PMsg),
    (∀ h, m = .height h → Config.heightFmt (word h) = h) →
    d2pOfPort (d2pToPort word free m) = m ∧
    answer (.d2pEncPort (d2pToPort word free m)) = answer (.d2pEnc m)) ∧
  (∀ p : P2DPort, p2dOfPort p = none ↔ p.kind ∈ ([0, 5, 9, 13, 14] : List (BitVec 4)))

/-! ## Steps and runs -/

/-- A step runs the decoded instruction: the host's next call is taken off the list, and nothing else is added. That
calls stand in a list and one step takes the oldest is the model's choice, assumption log entries 1 and 4. -/
def Obligations.StepRunsTheDecodedInstruction : Prop :=
  ∀ (s : State) (c : Call) (cs : List Call) (i : Instr),
    s.calls = c :: cs → decode c = .ok i → step s = exec i { calls := cs, results := s.results }

/-- The instruction of a table word, placed where the next one is fetched, is what the next step runs. Both the reading
of a bare word and the placing are the model's choice, assumption log entries 3 and 4. -/
def Obligations.PlacedTableWordRunsNext : Prop :=
  ∀ (s : State) (nbits w : Nat) (i : Instr),
    decodeTableWord nbits w = some i → step (s.withFetchWord nbits w) = exec i s

/-- 60_exceptions section 7, the spec's own decision D12: a buffer that is not 7 bytes, or a tag that names no
constructor, is refused by name, and a call is refused in no other case; a 7-byte buffer is the frame it holds. The names
of the refusals are the model's (assumption log entry 5), and so is the list of calls (entry 4). -/
def Obligations.OnlyMalformedInputIsRefused : Prop :=
  ∀ (s : State) (cs : List Call),
    (∀ bytes : List Byte, bytes.length ≠ 7 →
      (s.calls = .p2dDecBuffer bytes :: cs → step s = .refused (.rejected (.wrongLength bytes.length))) ∧
      (s.calls = .d2pDecBuffer bytes :: cs → step s = .refused (.rejected (.wrongLength bytes.length))) ∧
      (s.calls = .validateBuffer bytes :: cs → step s = .refused (.rejected (.wrongLength bytes.length)))) ∧
    (∀ p : P2DPort, p.kind ∈ ([0, 5, 9, 13, 14] : List (BitVec 4)) → s.calls = .p2dEncPort p :: cs →
      step s = .refused (.rejected (.noSuchTag p.kind))) ∧
    (∀ c : Call, s.calls = c :: cs → ((∃ why, step s = .refused why) ↔
      (∃ bytes : List Byte, bytes.length ≠ 7 ∧
        (c = .p2dDecBuffer bytes ∨ c = .d2pDecBuffer bytes ∨ c = .validateBuffer bytes)) ∨
      (∃ p : P2DPort, p.kind ∈ ([0, 5, 9, 13, 14] : List (BitVec 4)) ∧ c = .p2dEncPort p))) ∧
    (∀ f : Frame,
      answer (.p2dDecBuffer (frameBytes f)) = answer (.p2dDec f) ∧
      answer (.d2pDecBuffer (frameBytes f)) = answer (.d2pDec f) ∧
      answer (.validateBuffer (frameBytes f)) = answer (.validate f))

/-- R221 and R222: encode answers a frame for every message, decode a message for every frame. -/
def Obligations.EncodeAndDecodeAreTotal : Prop :=
  (∀ m : P2DMsg, ∃ g : Frame, answer (.p2dEnc m) = some (.frame g)) ∧
  (∀ m : D2PMsg, ∃ g : Frame, answer (.d2pEnc m) = some (.frame g)) ∧
  (∀ f : Frame, ∃ m : P2DMsg, answer (.p2dDec f) = some (.p2d m)) ∧
  (∀ f : Frame, ∃ m : D2PMsg, answer (.d2pDec f) = some (.d2p m)) ∧
  (∀ cmd pa pb : Byte, ∃ g : Frame, answer (.build cmd pa pb) = some (.frame g))

/-- R220: every operation on values of its input types completes, in every state, with the output it gives as
the only operation ever issued. That a step takes its call off the list is the model's choice, assumption log entry 4. -/
def Obligations.EveryPresentableCallCompletes : Prop :=
  ∀ (s : State) (c : Call) (cs : List Call), s.calls = c :: cs → presentable c = true →
    ∃ out : Output, answer c = some out ∧ step s = .next { calls := cs, results := s.results ++ [out] }

/-- 20_memory section 6 (consistency model): however many operations are issued, and in whatever order, each returns
what it would return if it were the only operation ever issued. That they run one after another and their outputs stand
in that order is the model's choice, assumption log entries 4 and 7. -/
def Obligations.EachCallIsAnsweredAsIfAlone : Prop :=
  ∀ s : State, (∀ c ∈ s.calls, presentable c = true) →
    ∃ outs : List Output, s.calls.map answer = outs.map some ∧
      Host.Core.run Sys2Proof.core s.calls.length s = .next { calls := [], results := s.results ++ outs }

/-- With no operation issued nothing happens. This is the model's choice, assumption log entry 4. -/
def Obligations.NothingHappensWithoutACall : Prop :=
  ∀ s : State, s.calls = [] → step s = .next s

/-- Nothing is pending and nothing has been answered before the first call. The two fields are the model's own,
assumption log entry 1; the spec gives nothing to reset (R240). -/
def Obligations.ResetHoldsNothing : Prop :=
  State.reset.calls = [] ∧ State.reset.results = []

/-! ## Invariants that every step keeps -/

/-- 44_validator section 1 and 40_frame_builder_checksum section 2, laws the spec marks as derived: every frame the
host is given is structurally valid. -/
def Obligations.StepKeepsFramesValid : Prop :=
  ∀ s t : State, framesSound s → step s = .next t → framesSound t

/-- Every message the host is given is one that the rules of decoding can answer: heights on the millimetre grid of its
direction within the byte range, an unrecognised command byte in `Unknown`. -/
def Obligations.StepKeepsMessagesDecodable : Prop :=
  ∀ s t : State, messagesSound s → step s = .next t → messagesSound t

/-- Both invariants hold at reset. -/
def Obligations.ResetIsSound : Prop := framesSound State.reset ∧ messagesSound State.reset

/-! ## The laws of the codec -/

/-- 44_validator section 1, a law the spec marks as derived: the validator passes every frame an encoder or the frame
builder produces. -/
def Obligations.EncodedFramesValidate : Prop :=
  ∀ (c : Call) (g : Frame), answer c = some (.frame g) → answer (.validate g) = some (.bit true)

/-- R106: byte 5 of a built frame is the sum of bytes 1 to 4; of an encoded `Unknown` exactly if the caller made it so. -/
def Obligations.BuiltFramesCarryTheirChecksum : Prop :=
  (∀ (cmd pa pb : Byte) (g : Frame), answer (.build cmd pa pb) = some (.frame g) →
    g.ck.toNat = (g.addr.toNat + g.cmd.toNat + g.pa.toNat + g.pb.toNat) % 256) ∧
  (∀ (m : P2DMsg) (g : Frame), p2dIsUnknown m = false → answer (.p2dEnc m) = some (.frame g) →
    g.ck.toNat = (g.addr.toNat + g.cmd.toNat + g.pa.toNat + g.pb.toNat) % 256) ∧
  (∀ (h : Height) (g : Frame), answer (.d2pEnc (.height h)) = some (.frame g) →
    g.ck.toNat = (g.addr.toNat + g.cmd.toNat + g.pa.toNat + g.pb.toNat) % 256) ∧
  (∀ (a b c d e : Byte) (g : Frame),
    (answer (.p2dEnc (.unknown a b c d e)) = some (.frame g) ∨
      answer (.d2pEnc (.unknown a b c d e)) = some (.frame g)) →
    (g.ck.toNat = (g.addr.toNat + g.cmd.toNat + g.pa.toNat + g.pb.toNat) % 256 ↔
      e.toNat = (a.toNat + b.toNat + c.toNat + d.toNat) % 256))

/-- 40_frame_builder_checksum section 2, which the spec marks as derived:
different inputs of `BUILD` give different frames. -/
def Obligations.BuildIsInjective : Prop :=
  ∀ cmd pa pb cmd' pa' pb' : Byte,
    answer (.build cmd pa pb) = answer (.build cmd' pa' pb') → cmd = cmd' ∧ pa = pa' ∧ pb = pb'

/-- 41_height section 4, which the spec marks as derived:
bytes survive the trip through a height for every offset; an in-range height comes back as the next lower
multiple of 0.1 cm above the offset, which is itself exactly when it is a whole number of millimetres above it. -/
def Obligations.HeightRoundTrip : Prop :=
  (∀ (msb lsb : Byte) (off : Cm), ∃ h : Cm,
    answer (.b2h msb lsb (.cm off)) = some (.height (.cm h)) ∧
    answer (.h2b (.cm h) (.cm off)) = some (.bytePair msb lsb)) ∧
  (∀ h off : Cm, 0 ≤ (h - off) * 10 → (h - off) * 10 < 65536 → ∃ (msb lsb : Byte) (k : Cm),
    answer (.h2b (.cm h) (.cm off)) = some (.bytePair msb lsb) ∧
    answer (.b2h msb lsb (.cm off)) = some (.height (.cm k)) ∧
    k = off + (⌊(h - off) * 10⌋ : Cm) / 10 ∧ (k = h ↔ ∃ n : Int, (h - off) * 10 = (n : Cm)))

/-- 41_height section 4, which the spec marks as derived:
the millimetre count grows with the height. -/
def Obligations.HeightEncodingIsMonotonic : Prop :=
  ∀ (h₁ h₂ off : Cm), 0 ≤ (h₁ - off) * 10 → h₁ ≤ h₂ → (h₂ - off) * 10 < 65536 →
    ∃ msb₁ lsb₁ msb₂ lsb₂ : Byte,
      answer (.h2b (.cm h₁) (.cm off)) = some (.bytePair msb₁ lsb₁) ∧
      answer (.h2b (.cm h₂) (.cm off)) = some (.bytePair msb₂ lsb₂) ∧
      256 * msb₁.toNat + lsb₁.toNat ≤ 256 * msb₂.toNat + lsb₂.toNat

/-- 41_height section 4, which the spec marks as derived:
100.0 cm in the two directions, as a pair and on the wire. -/
def Obligations.DirectionsEncodeOneHeightDifferently : Prop :=
  answer (.h2b (.cm 100) (.cm 0)) = some (.bytePair 3 232) ∧
  answer (.h2b (.cm 100) (.cm 65)) = some (.bytePair 1 94) ∧
  answer (.p2dEnc (.one (.cm 100))) = some (.frame ⟨104, 1, 6, 232, 3, 242, 22⟩) ∧
  answer (.d2pEnc (.height (.cm 100))) = some (.frame ⟨104, 1, 0, 1, 94, 96, 22⟩)

/-- 42_panel_to_desk section 3, which the spec marks as derived:
known Panel→Desk messages on the millimetre grid survive; an in-range height loses its fraction; out of range
the height is that of the two free bytes (assumption log entry 2), which a NaN and an infinity are by the spec's decision
D5 (entry 6). -/
def Obligations.P2dMessageRoundTrip : Prop :=
  (∀ m : P2DMsg, p2dExact m → ∃ g : Frame,
    answer (.p2dEnc m) = some (.frame g) ∧ answer (.p2dDec g) = some (.p2d m)) ∧
  (∀ (h : Height) (k : Cm), heightAfterTrip h 0 k →
    ∃ g₁ g₂ g₃ : Frame,
      answer (.p2dEnc (.one h)) = some (.frame g₁) ∧ answer (.p2dDec g₁) = some (.p2d (.one (.cm k))) ∧
      answer (.p2dEnc (.two h)) = some (.frame g₂) ∧ answer (.p2dDec g₂) = some (.p2d (.two (.cm k))) ∧
      answer (.p2dEnc (.three h)) = some (.frame g₃) ∧ answer (.p2dDec g₃) = some (.p2d (.three (.cm k))))

/-- 42_panel_to_desk section 3, which the spec marks as derived:
an encoded Panel→Desk `Unknown` decodes back to itself exactly when its command byte is not a known one;
otherwise to the known variant of that byte. -/
def Obligations.P2dUnknownRoundTrip : Prop :=
  ∀ a b c d e : Byte, ∃ (g : Frame) (m : P2DMsg),
    answer (.p2dEnc (.unknown a b c d e)) = some (.frame g) ∧ answer (.p2dDec g) = some (.p2d m) ∧
    (m = .unknown a b c d e ↔ b ∉ ([1, 2, 3, 4, 6, 7, 8, 10, 11, 12] : List Byte)) ∧
    (b = 1 → m = .up) ∧ (b = 2 → m = .down) ∧ (b = 3 → m = .noKey) ∧ (b = 4 → m = .deskReset) ∧
    (b = 6 → m = .one (.cm ((256 * (d.toNat : Cm) + (c.toNat : Cm)) / 10))) ∧
    (b = 7 → m = .two (.cm ((256 * (d.toNat : Cm) + (c.toNat : Cm)) / 10))) ∧
    (b = 8 → m = .three (.cm ((256 * (d.toNat : Cm) + (c.toNat : Cm)) / 10))) ∧
    (b = 10 → m = .resetOne) ∧ (b = 11 → m = .resetTwo) ∧ (b = 12 → m = .resetThree)

/-- 42_panel_to_desk section 3, which the spec marks as derived:
decode then encode of a frame with a known Panel→Desk command byte gives its canonical sibling, which is the
frame itself exactly when it is canonical. -/
def Obligations.P2dKnownFrameRoundTrip : Prop :=
  ∀ f : Frame, f.cmd ∈ ([1, 2, 3, 4, 6, 7, 8, 10, 11, 12] : List Byte) → ∃ (m : P2DMsg) (g : Frame),
    answer (.p2dDec f) = some (.p2d m) ∧ answer (.p2dEnc m) = some (.frame g) ∧
    (g = f ↔ canonicalP2D f) ∧ canonicalP2D g ∧ g.cmd = f.cmd ∧
    (f.cmd ∈ ([6, 7, 8] : List Byte) → g.pa = f.pa ∧ g.pb = f.pb)

/-- 42_panel_to_desk section 3, which the spec marks as derived:
decode then encode of a frame with an unrecognised Panel→Desk command byte repairs the markers and keeps the
other five bytes, so it is the frame itself exactly when that is structurally valid. -/
def Obligations.P2dUnknownFramePassthrough : Prop :=
  ∀ f : Frame, f.cmd ∉ ([1, 2, 3, 4, 6, 7, 8, 10, 11, 12] : List Byte) → ∃ (m : P2DMsg) (g : Frame),
    answer (.p2dDec f) = some (.p2d m) ∧ answer (.p2dEnc m) = some (.frame g) ∧
    g = ⟨104, f.addr, f.cmd, f.pa, f.pb, f.ck, 22⟩ ∧ (g = f ↔ structurallyValid f)

/-- 43_desk_to_panel section 3, which the spec marks as derived:
a `Height` on the millimetre grid survives; an in-range one loses its fraction; out of range the height is
that of the two free bytes (assumption log entry 2), which a NaN and an infinity are by the spec's decision D5
(entry 6). -/
def Obligations.D2pHeightRoundTrip : Prop :=
  (∀ h : Height, onGrid h 65 → ∃ g : Frame,
    answer (.d2pEnc (.height h)) = some (.frame g) ∧ answer (.d2pDec g) = some (.d2p (.height h))) ∧
  (∀ (h : Height) (k : Cm), heightAfterTrip h 65 k →
    ∃ g : Frame,
      answer (.d2pEnc (.height h)) = some (.frame g) ∧ answer (.d2pDec g) = some (.d2p (.height (.cm k))))

/-- 43_desk_to_panel section 3, which the spec marks as derived:
an encoded Desk→Panel `Unknown` decodes back to itself exactly when its command byte is not 0; otherwise to
the `Height` its payload carries. -/
def Obligations.D2pUnknownRoundTrip : Prop :=
  ∀ a b c d e : Byte, ∃ (g : Frame) (m : D2PMsg),
    answer (.d2pEnc (.unknown a b c d e)) = some (.frame g) ∧ answer (.d2pDec g) = some (.d2p m) ∧
    (m = .unknown a b c d e ↔ b ≠ 0) ∧
    (b = 0 → m = .height (.cm ((256 * (c.toNat : Cm) + (d.toNat : Cm)) / 10 + 65)))

/-- 43_desk_to_panel section 3, which the spec marks as derived:
the frame-side round trip Desk→Panel, for command byte 0 and for every other one. -/
def Obligations.D2pFrameRoundTrip : Prop :=
  ∀ f : Frame, ∃ (m : D2PMsg) (g : Frame),
    answer (.d2pDec f) = some (.d2p m) ∧ answer (.d2pEnc m) = some (.frame g) ∧
    (f.cmd = 0 → answer (.build 0 f.pa f.pb) = some (.frame g) ∧ (g = f ↔ canonicalD2P f)) ∧
    (f.cmd ≠ 0 → g = ⟨104, f.addr, f.cmd, f.pa, f.pb, f.ck, 22⟩ ∧ (g = f ↔ structurallyValid f))

/-- 30_encoding section 4, which the spec marks as derived:
the canonical frames are exactly those that encoding a message other than `Unknown` produces, out-of-range
heights included. -/
def Obligations.CanonicalFramesAreTheEncodedOnes : Prop :=
  ∀ f : Frame,
    (canonicalP2D f ↔ ∃ m : P2DMsg, p2dIsUnknown m = false ∧ answer (.p2dEnc m) = some (.frame f)) ∧
    (canonicalD2P f ↔ ∃ h : Height, answer (.d2pEnc (.height h)) = some (.frame f))

/-- 70_reset_and_hazards section 3, which the spec marks as derived:
a canonical frame of one direction comes out of the other direction's decoder as `Unknown`; an encoded
`Unknown` need not. -/
def Obligations.WrongDecoderGivesUnknown : Prop :=
  (∀ f : Frame, canonicalD2P f →
    answer (.p2dDec f) = some (.p2d (.unknown f.addr f.cmd f.pa f.pb f.ck))) ∧
  (∀ f : Frame, canonicalP2D f →
    answer (.d2pDec f) = some (.d2p (.unknown f.addr f.cmd f.pa f.pb f.ck))) ∧
  (∃ g : Frame, answer (.p2dEnc (.unknown 1 0 1 94 96)) = some (.frame g) ∧
    answer (.d2pDec g) = some (.d2p (.height (.cm 100))))

/-- 70_reset_and_hazards section 3, which the spec marks as derived:
a misaligned window over two canonical frames that `VALIDATE` passes. -/
def Obligations.MisalignedWindowCanValidate : Prop :=
  ∃ f g : Frame,
    answer (.d2pEnc (.height (.cm (753 / 10)))) = some (.frame f) ∧
    answer (.d2pEnc (.height (.cm (672 / 10)))) = some (.frame g) ∧
    ((frameBytes f ++ frameBytes g).drop 5).take 7 = [104, 22, 104, 1, 0, 0, 22] ∧
    answer (.validateBuffer [104, 22, 104, 1, 0, 0, 22]) = some (.bit true) ∧
    answer (.d2pDecBuffer [104, 22, 104, 1, 0, 0, 22]) = some (.d2p (.unknown 22 104 1 0 0))

/-! ## Rules stated beside the wider statements above -/

/-- R151 and R182: `Unknown` of either direction puts its five bytes between the markers, whatever they are; with a
known command byte the frame does not decode back to `Unknown`. -/
def Obligations.UnknownBytesGoBetweenTheMarkers : Prop :=
  ∀ (s : State) (a b c d e : Byte),
    exec (.p2dEncUnknown a b c d e) s =
      .next { calls := s.calls, results := s.results ++ [.frame ⟨104, a, b, c, d, e, 22⟩] } ∧
    exec (.d2pEncUnknown a b c d e) s =
      .next { calls := s.calls, results := s.results ++ [.frame ⟨104, a, b, c, d, e, 22⟩] } ∧
    (b ∈ ([1, 2, 3, 4, 6, 7, 8, 10, 11, 12] : List Byte) →
      ∃ m : P2DMsg, answer (.p2dDec ⟨104, a, b, c, d, e, 22⟩) = some (.p2d m) ∧ p2dIsUnknown m = false) ∧
    (b = 0 → ∃ h : Height, answer (.d2pDec ⟨104, a, b, c, d, e, 22⟩) = some (.d2p (.height h)))

/-- R40: each of the indices 0 to 6 holds one byte, no other index exists, and exactly the sequences of 7 bytes are
frames. -/
def Obligations.FramesHaveExactlySevenBytes : Prop :=
  (∀ (f : Frame) (i : Nat), (∃ b, frameByte f i = some b) ↔ i < 7) ∧
  (∀ bytes : List Byte, (∃ f, frameOfBytes bytes = some f ∧ frameBytes f = bytes) ↔ bytes.length = 7)

/-- HEIGHT_FMT (00_scope section 5, 41_height sections 1 and 5): a height presented as a word of the open format is
handled as the height the word stands for, on every port that takes one; a NaN and an infinity are out of range and the
encoders complete. The number format and these readings are the spec's decisions D3 and D5 (assumption log entry 6);
what `B2H` answers at an offset that is no number is the model's free value (entry 12). -/
def Obligations.HeightWordsStandForTheirHeights : Prop :=
  (∀ h off : HeightWord, answer (.h2bWords h off) = answer (.h2b (Config.heightFmt h) (Config.heightFmt off))) ∧
  (∀ (msb lsb : Byte) (off : HeightWord),
    answer (.b2hWords msb lsb off) = answer (.b2h msb lsb (Config.heightFmt off))) ∧
  (∀ (h : HeightWord) (raw : RawBytes),
    answer (.p2dEncPort ⟨6, h, raw⟩) = answer (.p2dEnc (.one (Config.heightFmt h))) ∧
    answer (.p2dEncPort ⟨7, h, raw⟩) = answer (.p2dEnc (.two (Config.heightFmt h))) ∧
    answer (.p2dEncPort ⟨8, h, raw⟩) = answer (.p2dEnc (.three (Config.heightFmt h))) ∧
    answer (.d2pEncPort ⟨0, h, raw⟩) = answer (.d2pEnc (.height (Config.heightFmt h)))) ∧
  (∀ (n : Nat) (msb lsb : Byte), (msb, lsb) = Config.oorBytes (.nonFinite n) (.cm 0) →
    answer (.h2b (.nonFinite n) (.cm 0)) = some (.bytePair msb lsb) ∧
    answer (.p2dEnc (.one (.nonFinite n))) = answer (.build 6 lsb msb) ∧
    answer (.p2dEnc (.two (.nonFinite n))) = answer (.build 7 lsb msb) ∧
    answer (.p2dEnc (.three (.nonFinite n))) = answer (.build 8 lsb msb)) ∧
  (∀ (n : Nat) (msb lsb : Byte), (msb, lsb) = Config.oorBytes (.nonFinite n) (.cm 65) →
    answer (.d2pEnc (.height (.nonFinite n))) = answer (.build 0 msb lsb)) ∧
  (∀ (s : State) (msb lsb : Byte) (n : Nat), exec (.b2h msb lsb (.nonFinite n)) s =
    .next { calls := s.calls, results := s.results ++ [.height (Config.heightAtNonFiniteOffset msb lsb n)] })

/-- R145 to R147, for every height that is a number of centimetres: `H2B(h, 0)` gives two bytes, those of the whole
millimetres in range and `OOR_BYTES(h, 0)` out of range, and the three presets are `BUILD` of them, low byte first. -/
def Obligations.PresetsAreBuiltFromTheirHeightBytes : Prop :=
  ∀ (s : State) (h : Cm), ∃ msb lsb : Byte,
    exec (.h2b (.cm h) (.cm 0)) s = .next { calls := s.calls, results := s.results ++ [.bytePair msb lsb] } ∧
    (0 ≤ h * 10 → h * 10 < 65536 → 256 * (msb.toNat : Int) + (lsb.toNat : Int) = ⌊h * 10⌋) ∧
    (h * 10 < 0 ∨ 65536 ≤ h * 10 → (msb, lsb) = Config.oorBytes (.cm h) (.cm 0)) ∧
    exec (.p2dEncOne (.cm h)) s = .next { calls := s.calls, results := s.results ++
      [.frame ⟨104, 1, 6, lsb, msb, BitVec.ofNat 8 ((7 + lsb.toNat + msb.toNat) % 256), 22⟩] } ∧
    exec (.p2dEncTwo (.cm h)) s = .next { calls := s.calls, results := s.results ++
      [.frame ⟨104, 1, 7, lsb, msb, BitVec.ofNat 8 ((8 + lsb.toNat + msb.toNat) % 256), 22⟩] } ∧
    exec (.p2dEncThree (.cm h)) s = .next { calls := s.calls, results := s.results ++
      [.frame ⟨104, 1, 8, lsb, msb, BitVec.ofNat 8 ((9 + lsb.toNat + msb.toNat) % 256), 22⟩] } ∧
    exec (.p2dEncOne (.cm h)) s = exec (.build 6 lsb msb) s ∧
    exec (.p2dEncTwo (.cm h)) s = exec (.build 7 lsb msb) s ∧
    exec (.p2dEncThree (.cm h)) s = exec (.build 8 lsb msb) s

/-- R181, for every height that is a number of centimetres: `H2B(h, 65)` gives two bytes, those of the whole millimetres
above 65 cm in range and `OOR_BYTES(h, 65)` out of range, and `Height` is `BUILD` of them, high byte first. -/
def Obligations.HeightIsBuiltFromItsHeightBytes : Prop :=
  ∀ (s : State) (h : Cm), ∃ msb lsb : Byte,
    exec (.h2b (.cm h) (.cm 65)) s = .next { calls := s.calls, results := s.results ++ [.bytePair msb lsb] } ∧
    (0 ≤ (h - 65) * 10 → (h - 65) * 10 < 65536 →
      256 * (msb.toNat : Int) + (lsb.toNat : Int) = ⌊(h - 65) * 10⌋) ∧
    ((h - 65) * 10 < 0 ∨ 65536 ≤ (h - 65) * 10 → (msb, lsb) = Config.oorBytes (.cm h) (.cm 65)) ∧
    exec (.d2pEncHeight (.cm h)) s = .next { calls := s.calls, results := s.results ++
      [.frame ⟨104, 1, 0, msb, lsb, BitVec.ofNat 8 ((1 + msb.toNat + lsb.toNat) % 256), 22⟩] } ∧
    exec (.d2pEncHeight (.cm h)) s = exec (.build 0 msb lsb) s
end

