-- ==== Sys2Proof/Laws/Operands.lean ====
section
/-! SUPPORT. The height operand in integer arithmetic, and the frame operand as bytes. -/

namespace Sys2Proof.Machine

@[simp] theorem frameOfBytes_frameBytes (f : Frame) : frameOfBytes (frameBytes f) = some f := rfl

@[simp] theorem frameBytes_length (f : Frame) : (frameBytes f).length = 7 := rfl

/-- A buffer is a frame exactly when it has seven bytes. -/
theorem frameOfBytes_eq_none_iff (bytes : List Byte) : frameOfBytes bytes = none ↔ bytes.length ≠ 7 := by
  rcases bytes with _ | ⟨a, _ | ⟨b, _ | ⟨c, _ | ⟨d, _ | ⟨e, _ | ⟨f, _ | ⟨g, _ | ⟨h, t⟩⟩⟩⟩⟩⟩⟩⟩ <;> simp [frameOfBytes]

/-- The bytes a frame was read from are the frame's bytes. -/
theorem frameBytes_of_frameOfBytes {bytes : List Byte} {f : Frame} (h : frameOfBytes bytes = some f) :
    frameBytes f = bytes := by
  rcases bytes with _ | ⟨a, _ | ⟨b, _ | ⟨c, _ | ⟨d, _ | ⟨e, _ | ⟨f', _ | ⟨g, _ | ⟨h', t⟩⟩⟩⟩⟩⟩⟩⟩ <;>
    simp [frameOfBytes] at h
  subst h
  rfl

theorem millimetres_lt (msb lsb : Byte) : millimetres msb lsb < 65536 := by
  have h1 := msb.isLt
  have h2 := lsb.isLt
  simp only [millimetres, byteRadix]
  omega

/-- Two bytes are the quotient and the remainder of their millimetre count. -/
theorem bytes_of_millimetres (msb lsb : Byte) :
    BitVec.ofNat 8 (millimetres msb lsb / 256) = msb ∧ BitVec.ofNat 8 (millimetres msb lsb % 256) = lsb := by
  have h1 := msb.isLt
  have h2 := lsb.isLt
  have hq : millimetres msb lsb / 256 = msb.toNat := by simp only [millimetres, byteRadix]; omega
  have hr : millimetres msb lsb % 256 = lsb.toNat := by simp only [millimetres, byteRadix]; omega
  rw [hq, hr]
  simp

/-- The millimetre count of the quotient and the remainder of a 16-bit number is that number. -/
theorem millimetres_of_bytes {n : Nat} (hn : n < 65536) :
    millimetres (BitVec.ofNat 8 (n / 256)) (BitVec.ofNat 8 (n % 256)) = n := by
  simp only [millimetres, byteRadix, BitVec.toNat_ofNat]
  omega

/-- Out of range the pair is the free value of rule R124. -/
theorem heightToBytes_outOfRange {h off : Cm} (hr : ¬ heightInRange h off) :
    heightToBytes (.cm h) (.cm off) = Config.oorBytes (.cm h) (.cm off) := if_neg hr

/-- A height that is no number is out of range (D5). -/
@[simp] theorem heightToBytes_nonFinite (n : Nat) (off : Height) :
    heightToBytes (.nonFinite n) off = Config.oorBytes (.nonFinite n) off := by cases off <;> rfl

/-- At an offset that is no number every height is out of range. -/
@[simp] theorem heightToBytes_nonFiniteOffset (h : Height) (n : Nat) :
    heightToBytes h (.nonFinite n) = Config.oorBytes h (.nonFinite n) := by cases h <;> rfl

/-- The height two bytes carry above a number is a number. -/
@[simp] theorem bytesToHeight_cm (msb lsb : Byte) (off : Cm) :
    bytesToHeight msb lsb (.cm off) = .cm ((millimetres msb lsb : Cm) / 10 + off) := rfl

/-- In range the pair is the quotient and the remainder by 256 of the whole millimetres: the equivalent statement of
rule R122. -/
theorem heightToBytes_inRange {h off : Cm} {n : Nat} (hr : heightInRange h off) (hn : ⌊netMm h off⌋ = (n : Int)) :
    heightToBytes (.cm h) (.cm off) = (BitVec.ofNat 8 (n / 256), BitVec.ofNat 8 (n % 256)) := by
  have hq : ⌊netMm h off / ((256 : Nat) : Cm)⌋ = ((n / 256 : Nat) : Int) := by
    rw [Int.floor_div_natCast, hn]
    rfl
  have hrem : ⌊netMm h off - ((n / 256 : Nat) : Int) * ((256 : Nat) : Cm)⌋ = ((n % 256 : Nat) : Int) := by
    have : netMm h off - (((n / 256 : Nat) : Int) : Cm) * ((256 : Nat) : Cm)
        = netMm h off - ((((n / 256 : Nat) : Int) * 256 : Int) : Cm) := by push_cast; ring
    rw [this, Int.floor_sub_intCast, hn]
    omega
  simp only [heightToBytes, if_pos hr, byteRadix, hq, hrem, BitVec.ofInt_natCast]

end Sys2Proof.Machine
end

