-- ==== Sys2Proof/Laws/Decode.lean ====
section
/-! SUPPORT. What the selection of a row can answer, said once. -/

namespace Sys2Proof

open Sys2Proof.Machine

theorem p2dKnown_iff (c : Byte) :
    p2dKnown c = true ↔ c = 1#8 ∨ c = 2#8 ∨ c = 3#8 ∨ c = 4#8 ∨ c = 6#8 ∨ c = 7#8 ∨ c = 8#8 ∨ c = 10#8 ∨ c = 11#8 ∨ c = 12#8 := by
  simp [p2dKnown, or_assoc]

/-- The eleven cases of the Panel→Desk selection. -/
theorem selectP2DDec_cases (f : Frame) :
    (f.cmd = 1#8 ∧ selectP2DDec f = .p2dDecUp f) ∨ (f.cmd = 2#8 ∧ selectP2DDec f = .p2dDecDown f) ∨
    (f.cmd = 3#8 ∧ selectP2DDec f = .p2dDecNoKey f) ∨ (f.cmd = 4#8 ∧ selectP2DDec f = .p2dDecDeskReset f) ∨
    (f.cmd = 6#8 ∧ selectP2DDec f = .p2dDecOne f) ∨ (f.cmd = 7#8 ∧ selectP2DDec f = .p2dDecTwo f) ∨
    (f.cmd = 8#8 ∧ selectP2DDec f = .p2dDecThree f) ∨ (f.cmd = 10#8 ∧ selectP2DDec f = .p2dDecResetOne f) ∨
    (f.cmd = 11#8 ∧ selectP2DDec f = .p2dDecResetTwo f) ∨ (f.cmd = 12#8 ∧ selectP2DDec f = .p2dDecResetThree f) ∨
    (p2dKnown f.cmd = false ∧ selectP2DDec f = .p2dDecUnknown f) := by
  by_cases h : p2dKnown f.cmd = true
  · rcases (p2dKnown_iff f.cmd).1 h with h | h | h | h | h | h | h | h | h | h <;> simp [selectP2DDec, h]
  · have hn := mt (p2dKnown_iff f.cmd).2 h
    simp only [Bool.not_eq_true] at h
    simp only [not_or] at hn
    simp_all [selectP2DDec]

/-- The two cases of the Desk→Panel selection. -/
theorem selectD2PDec_cases (f : Frame) :
    (f.cmd = 0#8 ∧ selectD2PDec f = .d2pDecHeight f) ∨ (f.cmd ≠ 0#8 ∧ selectD2PDec f = .d2pDecUnknown f) := by
  by_cases h : f.cmd = 0#8 <;> simp_all [selectD2PDec]

/-- What a frame buffer decodes to: the row its frame selects, or a refusal for its length. -/
theorem decodeBuffer_cases (select : Frame → Instr) (bytes : List Byte) :
    (bytes.length ≠ 7 ∧ decodeBuffer select bytes = .error (.wrongLength bytes.length)) ∨
    (∃ f, frameBytes f = bytes ∧ decodeBuffer select bytes = .ok (select f)) := by
  cases h : frameOfBytes bytes with
  | none => exact .inl ⟨(frameOfBytes_eq_none_iff bytes).1 h, by simp [decodeBuffer, h]⟩
  | some f => exact .inr ⟨f, frameBytes_of_frameOfBytes h, by simp [decodeBuffer, h]⟩

end Sys2Proof
end

