-- ==== Sys2Proof/Laws/State.lean ====
section
/-! SUPPORT. One lemma per field per update of State, and what each operation over State can do. -/

namespace Sys2Proof.Machine

@[simp] theorem present_calls (c : Call) (s : State) : (present c s).calls = c :: s.calls := rfl
@[simp] theorem present_results (c : Call) (s : State) : (present c s).results = s.results := rfl

/-- `deliver` always completes: the host gets the output, and its pending calls stay. -/
@[simp] theorem deliver_eq (out : Output) (s : State) :
    deliver out s = .next { calls := s.calls, results := s.results ++ [out] } := rfl

@[simp] theorem fetch_nil (r : List Output) : fetch { calls := [], results := r } = none := rfl
@[simp] theorem fetch_cons (c : Call) (cs : List Call) (r : List Output) :
    fetch { calls := c :: cs, results := r } = some (c, { calls := cs, results := r }) := rfl

@[simp] theorem fetch_present (c : Call) (s : State) : fetch (present c s) = some (c, s) := rfl

/-- What `fetch` can answer: the oldest call, taken off the list. -/
theorem fetch_eq_some {s s' : State} {c : Call} (h : fetch s = some (c, s')) :
    s.calls = c :: s'.calls ∧ s'.results = s.results := by
  obtain ⟨calls, results⟩ := s
  cases calls with
  | nil => simp at h
  | cons d ds =>
    simp only [fetch_cons, Option.some.injEq, Prod.mk.injEq] at h
    obtain ⟨rfl, rfl⟩ := h
    exact ⟨rfl, rfl⟩

theorem fetch_eq_none {s : State} (h : fetch s = none) : s.calls = [] := by
  obtain ⟨calls, results⟩ := s
  cases calls with
  | nil => rfl
  | cons d ds => simp at h

@[simp] theorem reset_calls : State.reset.calls = [] := rfl
@[simp] theorem reset_results : State.reset.results = [] := rfl

end Sys2Proof.Machine
end

