-- ==== Sys2Proof/Laws/Ops.lean ====
section
/-! SUPPORT. What a step can do, said once. -/

namespace Sys2Proof.Machine

/-- A step with a call pending, unfolded once. -/
theorem step_call (c : Call) (cs : List Call) (r : List Output) :
    step { calls := c :: cs, results := r } =
      match decode c with
      | .ok i => exec i { calls := cs, results := r }
      | .error why => .refused (.rejected why) := rfl

/-- What the host gets for a call that decodes, in terms of the instruction's meaning. -/
theorem answer_of_decode {c : Call} {i : Instr} {out : Output} (hd : decode c = .ok i)
    (he : exec i { calls := [], results := [] } = .next { calls := [], results := [out] }) :
    answer c = some out := by
  simp only [answer, step_call, hd, he, List.head?_cons]

/-- Calls that decode alike are answered alike. -/
theorem answer_congr {c d : Call} (h : decode c = decode d) : answer c = answer d := by
  simp only [answer, step_call, h]

end Sys2Proof.Machine
end

