-- ==== Sys2Proof/Laws/PerInstr.lean ====
section
/-! SUPPORT. Statements about every instruction as syntax, one lemma per constructor. -/

namespace Sys2Proof.Laws.WordLength

open Sys2Proof Sys2Proof.Machine

/-- The table word of an instruction has as many bytes as the table gives its unit. -/
def Statement (i : Instr) : Prop := (encodeWord i).length = unitWordLength (unitOf i)

theorem p2dEncUp : Statement (.p2dEncUp) := rfl
theorem p2dDecUp (f : Frame) : Statement (.p2dDecUp f) := rfl
theorem p2dEncDown : Statement (.p2dEncDown) := rfl
theorem p2dDecDown (f : Frame) : Statement (.p2dDecDown f) := rfl
theorem p2dEncNoKey : Statement (.p2dEncNoKey) := rfl
theorem p2dDecNoKey (f : Frame) : Statement (.p2dDecNoKey f) := rfl
theorem p2dEncDeskReset : Statement (.p2dEncDeskReset) := rfl
theorem p2dDecDeskReset (f : Frame) : Statement (.p2dDecDeskReset f) := rfl
theorem p2dEncOne (h : Height) : Statement (.p2dEncOne h) := rfl
theorem p2dDecOne (f : Frame) : Statement (.p2dDecOne f) := rfl
theorem p2dEncTwo (h : Height) : Statement (.p2dEncTwo h) := rfl
theorem p2dDecTwo (f : Frame) : Statement (.p2dDecTwo f) := rfl
theorem p2dEncThree (h : Height) : Statement (.p2dEncThree h) := rfl
theorem p2dDecThree (f : Frame) : Statement (.p2dDecThree f) := rfl
theorem p2dEncResetOne : Statement (.p2dEncResetOne) := rfl
theorem p2dDecResetOne (f : Frame) : Statement (.p2dDecResetOne f) := rfl
theorem p2dEncResetTwo : Statement (.p2dEncResetTwo) := rfl
theorem p2dDecResetTwo (f : Frame) : Statement (.p2dDecResetTwo f) := rfl
theorem p2dEncResetThree : Statement (.p2dEncResetThree) := rfl
theorem p2dDecResetThree (f : Frame) : Statement (.p2dDecResetThree f) := rfl
theorem p2dEncUnknown (a b c d e : Byte) : Statement (.p2dEncUnknown a b c d e) := rfl
theorem p2dDecUnknown (f : Frame) : Statement (.p2dDecUnknown f) := rfl
theorem d2pEncHeight (h : Height) : Statement (.d2pEncHeight h) := rfl
theorem d2pDecHeight (f : Frame) : Statement (.d2pDecHeight f) := rfl
theorem d2pEncUnknown (a b c d e : Byte) : Statement (.d2pEncUnknown a b c d e) := rfl
theorem d2pDecUnknown (f : Frame) : Statement (.d2pDecUnknown f) := rfl
theorem cksum (addr cmd pa pb : Byte) : Statement (.cksum addr cmd pa pb) := rfl
theorem build (cmd pa pb : Byte) : Statement (.build cmd pa pb) := rfl
theorem h2b (h off : Height) : Statement (.h2b h off) := rfl
theorem b2h (msb lsb : Byte) (off : Height) : Statement (.b2h msb lsb off) := rfl
theorem validate (f : Frame) : Statement (.validate f) := rfl
theorem isStart (b : Byte) : Statement (.isStart b) := rfl

end Sys2Proof.Laws.WordLength
end

