-- ==== Sys2Proof/Tests/Slice0.lean ====
section
/-! SUPPORT. The model's own tests: table words, ill-formed terms, vectors of spec/95_test_vectors.md, and a witness for
the hypotheses of each statement that has some. -/

namespace Sys2Proof.Tests

open Sys2Proof Sys2Proof.Machine

/-! ## A word of every row, from the `encoding` patterns of spec/opcode_table.json -/

theorem test_word_p2dEncUp : (decodeWord .p2dEnc [0x68, 1, 1, 0, 0, 2, 0x16]).toOption = some .p2dEncUp := by decide
theorem test_word_p2dEncDown : (decodeWord .p2dEnc [0x68, 1, 2, 0, 0, 3, 0x16]).toOption = some .p2dEncDown := by decide
theorem test_word_p2dEncNoKey : (decodeWord .p2dEnc [0x68, 1, 3, 0, 0, 4, 0x16]).toOption = some .p2dEncNoKey := by decide
theorem test_word_p2dEncDeskReset :
    (decodeWord .p2dEnc [0x68, 1, 4, 0, 0, 5, 0x16]).toOption = some .p2dEncDeskReset := by decide
theorem test_word_p2dEncResetOne :
    (decodeWord .p2dEnc [0x68, 1, 0x0A, 0, 0, 0x0B, 0x16]).toOption = some .p2dEncResetOne := by decide
theorem test_word_p2dEncResetTwo :
    (decodeWord .p2dEnc [0x68, 1, 0x0B, 0, 0, 0x0C, 0x16]).toOption = some .p2dEncResetTwo := by decide
theorem test_word_p2dEncResetThree :
    (decodeWord .p2dEnc [0x68, 1, 0x0C, 0, 0, 0x0D, 0x16]).toOption = some .p2dEncResetThree := by decide
theorem test_word_p2dEncOne :
    (decodeWord .p2dEnc [0x68, 1, 6, 0xFD, 2, 6, 0x16]).toOption = some (.p2dEncOne (.cm (765 / 10))) := by decide +kernel
theorem test_word_p2dEncTwo :
    (decodeWord .p2dEnc [0x68, 1, 7, 0xB0, 4, 0xBC, 0x16]).toOption = some (.p2dEncTwo (.cm 120)) := by decide +kernel
theorem test_word_p2dEncThree :
    (decodeWord .p2dEnc [0x68, 1, 8, 0xD5, 2, 0xE0, 0x16]).toOption = some (.p2dEncThree (.cm (725 / 10))) := by decide +kernel
theorem test_word_p2dEncUnknown :
    (decodeWord .p2dEnc [0x68, 2, 0xC8, 1, 2, 0xCD, 0x16]).toOption = some (.p2dEncUnknown 2 200 1 2 205) := by
  decide
theorem test_word_p2dDecUp :
    (decodeWord .p2dDec [0, 0, 1, 0, 0, 0, 0]).toOption = some (.p2dDecUp ⟨0, 0, 1, 0, 0, 0, 0⟩) := by decide
theorem test_word_p2dDecDown :
    (decodeWord .p2dDec [9, 8, 2, 7, 6, 5, 4]).toOption = some (.p2dDecDown ⟨9, 8, 2, 7, 6, 5, 4⟩) := by decide
theorem test_word_p2dDecNoKey :
    (decodeWord .p2dDec [9, 8, 3, 7, 6, 5, 4]).toOption = some (.p2dDecNoKey ⟨9, 8, 3, 7, 6, 5, 4⟩) := by decide
theorem test_word_p2dDecDeskReset :
    (decodeWord .p2dDec [9, 8, 4, 7, 6, 5, 4]).toOption = some (.p2dDecDeskReset ⟨9, 8, 4, 7, 6, 5, 4⟩) := by
  decide
theorem test_word_p2dDecOne :
    (decodeWord .p2dDec [9, 8, 6, 7, 6, 5, 4]).toOption = some (.p2dDecOne ⟨9, 8, 6, 7, 6, 5, 4⟩) := by decide
theorem test_word_p2dDecTwo :
    (decodeWord .p2dDec [9, 8, 7, 7, 6, 5, 4]).toOption = some (.p2dDecTwo ⟨9, 8, 7, 7, 6, 5, 4⟩) := by decide
theorem test_word_p2dDecThree :
    (decodeWord .p2dDec [9, 8, 8, 7, 6, 5, 4]).toOption = some (.p2dDecThree ⟨9, 8, 8, 7, 6, 5, 4⟩) := by decide
theorem test_word_p2dDecResetOne :
    (decodeWord .p2dDec [9, 8, 10, 7, 6, 5, 4]).toOption = some (.p2dDecResetOne ⟨9, 8, 10, 7, 6, 5, 4⟩) := by
  decide
theorem test_word_p2dDecResetTwo :
    (decodeWord .p2dDec [9, 8, 11, 7, 6, 5, 4]).toOption = some (.p2dDecResetTwo ⟨9, 8, 11, 7, 6, 5, 4⟩) := by
  decide
theorem test_word_p2dDecResetThree :
    (decodeWord .p2dDec [9, 8, 12, 7, 6, 5, 4]).toOption = some (.p2dDecResetThree ⟨9, 8, 12, 7, 6, 5, 4⟩) := by
  decide
/-- All 246 command bytes outside the table select `Unknown` (rule R68), and only they do. -/
theorem test_word_p2dDecUnknown : ∀ c : Byte,
    (decodeWord .p2dDec [9, 8, c, 7, 6, 5, 4]).toOption = some (.p2dDecUnknown ⟨9, 8, c, 7, 6, 5, 4⟩) ↔
      c ∈ ([0, 5, 9] : List Byte) ∨ 13 ≤ c.toNat := by decide +kernel
theorem test_word_d2pEncHeight :
    (decodeWord .d2pEnc [0x68, 1, 0, 1, 0x5E, 0x60, 0x16]).toOption = some (.d2pEncHeight (.cm 100)) := by decide +kernel
theorem test_word_d2pEncUnknown :
    (decodeWord .d2pEnc [0x68, 1, 1, 0, 0, 2, 0x16]).toOption = some (.d2pEncUnknown 1 1 0 0 2) := by decide
theorem test_word_d2pDecHeight :
    (decodeWord .d2pDec [0, 0, 0, 1, 0x5E, 0, 0]).toOption = some (.d2pDecHeight ⟨0, 0, 0, 1, 94, 0, 0⟩) := by
  decide
theorem test_word_d2pDecUnknown :
    (decodeWord .d2pDec [0x68, 1, 6, 0x8A, 2, 0x93, 0x16]).toOption = some (.d2pDecUnknown ⟨104, 1, 6, 138, 2, 147, 22⟩) := by
  decide
theorem test_word_cksum : (decodeWord .cksum [1, 6, 0x8A, 2]).toOption = some (.cksum 1 6 138 2) := by decide
theorem test_word_build :
    (decodeWord .build [0x68, 1, 9, 0, 0, 0x0A, 0x16]).toOption = some (.build 9 0 0) := by decide
theorem test_word_h2b : (decodeWord .h2b [2, 0x8A]).toOption = some (.h2b (.cm 65) (.cm 0)) := by decide +kernel
theorem test_word_b2h : (decodeWord .b2h [2, 0x8A]).toOption = some (.b2h 2 138 (.cm 0)) := by decide +kernel
theorem test_word_validate :
    (decodeWord .validate [0x68, 0, 0, 0, 0, 0, 0x16]).toOption = some (.validate ⟨104, 0, 0, 0, 0, 0, 22⟩) := by
  decide
theorem test_word_isStart : (decodeWord .isStart [0x68]).toOption = some (.isStart 104) := by decide

/-- No encoder emits a frame whose markers are wrong, and no unit takes eight bytes. -/
theorem test_word_rejected :
    (decodeWord .p2dEnc [0, 1, 1, 0, 0, 2, 0x16]).toOption = none ∧
    (decodeWord .p2dDec [0x68, 1, 1, 0, 0, 2, 0x16, 0]).toOption = none := by decide

/-- Frame index 2 is bits 39:32 of `F` (spec/00_scope.md 7.2), and `F` read back is the frame. -/
theorem test_bits : frameBits ⟨104, 1, 6, 138, 2, 147, 22⟩ = 0x6801068A029316#56 ∧
    frameOfBits 0x6801068A029316#56 = ⟨104, 1, 6, 138, 2, 147, 22⟩ := by decide

/-- The host's path: a table word placed as the next operation runs on the next step. -/
theorem test_fetch_word :
    step (State.reset.withFetchWord 56 0x68010100000216) =
      .next { calls := [], results := [.frame ⟨104, 1, 1, 0, 0, 2, 22⟩] } := rfl

/-! ## Ill-formed terms: a decode row with a frame that selects another row -/

theorem test_illFormed_p2d :
    (Instr.p2dDecUp ⟨104, 1, 2, 0, 0, 3, 22⟩).wellFormed = false ∧
    (Instr.p2dDecDown ⟨104, 1, 1, 0, 0, 2, 22⟩).wellFormed = false ∧
    (Instr.p2dDecNoKey ⟨104, 1, 4, 0, 0, 5, 22⟩).wellFormed = false ∧
    (Instr.p2dDecDeskReset ⟨104, 1, 5, 0, 0, 6, 22⟩).wellFormed = false ∧
    (Instr.p2dDecOne ⟨104, 1, 7, 0, 0, 8, 22⟩).wellFormed = false ∧
    (Instr.p2dDecTwo ⟨104, 1, 8, 0, 0, 9, 22⟩).wellFormed = false ∧
    (Instr.p2dDecThree ⟨104, 1, 9, 0, 0, 10, 22⟩).wellFormed = false ∧
    (Instr.p2dDecResetOne ⟨104, 1, 11, 0, 0, 12, 22⟩).wellFormed = false ∧
    (Instr.p2dDecResetTwo ⟨104, 1, 12, 0, 0, 13, 22⟩).wellFormed = false ∧
    (Instr.p2dDecResetThree ⟨104, 1, 13, 0, 0, 14, 22⟩).wellFormed = false ∧
    (Instr.p2dDecUnknown ⟨104, 1, 12, 0, 0, 13, 22⟩).wellFormed = false := by decide

theorem test_illFormed_d2p :
    (Instr.d2pDecHeight ⟨104, 1, 1, 0, 0, 2, 22⟩).wellFormed = false ∧
    (Instr.d2pDecUnknown ⟨104, 1, 0, 0, 0, 1, 22⟩).wellFormed = false := by decide

/-! ## Vectors: the expected results are those of spec/95_test_vectors.md -/

/-- S1. -/
theorem test_up : answer (.p2dEnc .up) = some (.frame ⟨104, 1, 1, 0, 0, 2, 22⟩) := by decide
/-- S2 and S7: the byte boundary 765 mm goes down, not up. -/
theorem test_one : answer (.p2dEnc (.one (.cm 65))) = some (.frame ⟨104, 1, 6, 138, 2, 147, 22⟩) ∧
    answer (.p2dEnc (.one (.cm (153 / 2)))) = some (.frame ⟨104, 1, 6, 253, 2, 6, 22⟩) := by decide +kernel
/-- Section 2.5. -/
theorem test_two : answer (.p2dEnc (.two (.cm 120))) = some (.frame ⟨104, 1, 7, 176, 4, 188, 22⟩) := by decide +kernel
theorem test_three : answer (.p2dEnc (.three (.cm 110))) = some (.frame ⟨104, 1, 8, 76, 4, 89, 22⟩) := by decide +kernel
theorem test_p2d_unknown : answer (.p2dEnc (.unknown 1 9 7 7 0)) = some (.frame ⟨104, 1, 9, 7, 7, 0, 22⟩) := by
  decide
/-- Section 2.6: stray address, payload and checksum are ignored. -/
theorem test_dec_up : answer (.p2dDec ⟨104, 9, 1, 200, 201, 77, 22⟩) = some (.p2d .up) := by decide
/-- Section 2.6: a wrong checksum is not detected; lsb at index 3, msb at index 4. -/
theorem test_dec_one : answer (.p2dDec ⟨104, 1, 6, 138, 2, 0, 22⟩) = some (.p2d (.one (.cm 65))) := by decide +kernel
theorem test_dec_three : answer (.p2dDec ⟨104, 1, 8, 213, 2, 224, 22⟩) = some (.p2d (.three (.cm (725 / 10)))) := by
  decide +kernel
theorem test_dec_unknown : answer (.p2dDec ⟨104, 1, 5, 0, 0, 6, 22⟩) = some (.p2d (.unknown 1 5 0 0 6)) := by
  decide
/-- S5 and section 2.7: the checksum byte can be 0. -/
theorem test_height : answer (.d2pEnc (.height (.cm (655 / 10)))) = some (.frame ⟨104, 1, 0, 0, 5, 6, 22⟩) ∧
    answer (.d2pEnc (.height (.cm (905 / 10)))) = some (.frame ⟨104, 1, 0, 0, 255, 0, 22⟩) := by decide +kernel
/-- Section 2.7: the all-zero frame decodes, though it is invalid. -/
theorem test_dec_height : answer (.d2pDec ⟨104, 1, 0, 1, 94, 96, 22⟩) = some (.d2p (.height (.cm 100))) ∧
    answer (.d2pDec ⟨0, 0, 0, 0, 0, 0, 0⟩) = some (.d2p (.height (.cm 65))) := by decide +kernel
/-- Section 2.1. -/
theorem test_cksum : answer (.cksum 255 255 255 255) = some (.checksum 252) ∧
    answer (.cksum 1 0 0 255) = some (.checksum 0) := by decide
/-- Section 2.2. -/
theorem test_build : answer (.build 104 22 104) = some (.frame ⟨104, 1, 104, 22, 104, 231, 22⟩) := by decide
/-- Section 2.3: 650.9 mm drops its fraction; 65535.9 mm is still in range. -/
theorem test_h2b : answer (.h2b (.cm (6509 / 100)) (.cm 0)) = some (.bytePair 2 138) ∧
    answer (.h2b (.cm (655359 / 100)) (.cm 0)) = some (.bytePair 255 255) := by decide +kernel
/-- Section 2.3: out of range is the open function, whatever it is. -/
theorem test_h2b_out_of_range : answer (.h2b (.cm (649 / 10)) (.cm 65)) =
    some (.bytePair (Config.oorBytes (.cm (649 / 10)) (.cm 65)).1 (Config.oorBytes (.cm (649 / 10)) (.cm 65)).2) := by
  have h : ¬ heightInRange (649 / 10) 65 := by decide +kernel
  simp only [answer, step, fetch, decode, exec, execH2b, deliver, heightToBytes_outOfRange h, List.nil_append,
    List.head?_cons]
/-- R131: a NaN is out of range; its frame is built around the two free bytes. -/
theorem test_height_nan : answer (.d2pEnc (.height (.nonFinite 0))) =
    answer (.build 0 (Config.oorBytes (.nonFinite 0) (.cm 65)).1 (Config.oorBytes (.nonFinite 0) (.cm 65)).2) := rfl
/-- Section 2.4: exact division, not integer division. -/
theorem test_b2h : answer (.b2h 0 5 (.cm 65)) = some (.height (.cm (655 / 10))) ∧
    answer (.b2h 255 255 (.cm 0)) = some (.height (.cm (65535 / 10))) := by decide +kernel
/-- Section 2.8. -/
theorem test_validate : answer (.validate ⟨104, 255, 255, 255, 255, 255, 22⟩) = some (.bit true) ∧
    answer (.validate ⟨22, 1, 1, 0, 0, 2, 104⟩) = some (.bit false) := by decide
/-- S11 and S12. -/
theorem test_isStart : ∀ b : Byte, answer (.isStart b) = some (.bit (b == 104)) := by decide +kernel
/-- R230 and R32: what a port cannot hold is refused. -/
theorem test_refused : answer (.validateBuffer [104, 22]) = none ∧ answer (.p2dEncPort ⟨9, 0, default⟩) = none := by
  decide +kernel
/-- R32: kind 7 is `Two`, of the height its word stands for. -/
theorem test_port : answer (.p2dEncPort ⟨7, 120, default⟩) = answer (.p2dEnc (.two (Config.heightFmt 120))) := rfl

/-! ## Witnesses: the hypotheses of each statement can be met -/

theorem witness_P2dEncodePresetFrames_inRange : bytesOfHeight (.cm (153 / 2)) 0 2 253 := by
  simp only [bytesOfHeight]
  rw [if_pos (by norm_num)]
  decide +kernel

theorem witness_P2dEncodePresetFrames_outOfRange :
    bytesOfHeight (.cm 7000) 0 (Config.oorBytes (.cm 7000) (.cm 0)).1 (Config.oorBytes (.cm 7000) (.cm 0)).2 := by
  simp only [bytesOfHeight]
  rw [if_neg (by norm_num)]
  trivial

theorem witness_P2dEncodePresetFrames_nonFinite : bytesOfHeight (.nonFinite 3) 0
    (Config.oorBytes (.nonFinite 3) (.cm 0)).1 (Config.oorBytes (.nonFinite 3) (.cm 0)).2 := rfl

theorem witness_P2dDecodePresetMessages :
    (Height.cm 65) = .cm ((256 * ((2 : Byte).toNat : Cm) + ((138 : Byte).toNat : Cm)) / 10) := by decide +kernel

theorem witness_D2pEncodeHeightFrame_inRange : bytesOfHeight (.cm 100) 65 1 94 := by
  simp only [bytesOfHeight]
  rw [if_pos (by norm_num)]
  decide +kernel

theorem witness_D2pEncodeHeightFrame_outOfRange :
    bytesOfHeight (.cm 64) 65 (Config.oorBytes (.cm 64) (.cm 65)).1 (Config.oorBytes (.cm 64) (.cm 65)).2 := by
  simp only [bytesOfHeight]
  rw [if_neg (by norm_num)]
  trivial

theorem witness_D2pEncodeHeightFrame_nonFinite : bytesOfHeight (.nonFinite 3) 65
    (Config.oorBytes (.nonFinite 3) (.cm 65)).1 (Config.oorBytes (.nonFinite 3) (.cm 65)).2 := rfl

/-- The first and the last height in range, with a fraction of a millimetre. -/
theorem witness_HeightToBytesInRange :
    (0 : Cm) ≤ (65 - 65) * 10 ∧ ((65 - 65) * 10 : Cm) < 65536 ∧
    (0 : Cm) ≤ (655359 / 100 - 0) * 10 ∧ ((655359 / 100 - 0) * 10 : Cm) < 65536 := by norm_num

/-- Just below the range of offset 65, just above that of offset 0, a NaN, and an offset that is no number. -/
theorem witness_HeightToBytesOutOfRange :
    outOfRange (.cm (649 / 10)) (.cm 65) ∧ outOfRange (.cm (65536 / 10)) (.cm 0) ∧ outOfRange (.nonFinite 0) (.cm 65) ∧
    outOfRange (.cm 1) (.nonFinite 0) ∧
    ((Config.oorBytes (.cm (649 / 10)) (.cm 65)).1, (Config.oorBytes (.cm (649 / 10)) (.cm 65)).2) =
      Config.oorBytes (.cm (649 / 10)) (.cm 65) ∧
    ((Config.oorBytes (.nonFinite 0) (.cm 0)).1, (Config.oorBytes (.nonFinite 0) (.cm 0)).2) =
      Config.oorBytes (.nonFinite 0) (.cm 0) :=
  ⟨.inl (by norm_num), .inr (by norm_num), trivial, trivial, rfl, rfl⟩

theorem witness_UnreadFrameBytesHaveNoInfluence :
    ((⟨0, 0, 1, 0, 0, 0, 0⟩ : Frame).cmd = (⟨104, 9, 1, 200, 201, 77, 22⟩ : Frame).cmd ∧
      (1 : Byte) ∈ ([1, 2, 3, 4, 10, 11, 12] : List Byte)) ∧
    ((⟨0, 0, 6, 5, 4, 0, 0⟩ : Frame).pa = (⟨104, 1, 6, 5, 4, 3, 22⟩ : Frame).pa ∧
      (6 : Byte) ∈ ([6, 7, 8] : List Byte)) ∧
    (⟨0, 0, 0, 5, 4, 0, 0⟩ : Frame).pb = (⟨104, 1, 0, 5, 4, 3, 22⟩ : Frame).pb ∧
    (⟨0, 1, 2, 3, 4, 5, 6⟩ : Frame).ck = (⟨9, 1, 2, 3, 4, 5, 7⟩ : Frame).ck ∧
    (⟨104, 1, 2, 3, 4, 5, 22⟩ : Frame).endMark = (⟨104, 9, 8, 7, 6, 5, 22⟩ : Frame).endMark := by decide

theorem witness_ChecksumIsNeverVerified :
    p2dIsUnknown (.one (.cm 65)) = false ∧
    answer (.p2dEnc (.one (.cm 65))) = some (.frame ⟨104, 1, 6, 138, 2, 147, 22⟩) ∧
    answer (.d2pEnc (.height (.cm 65))) = some (.frame ⟨104, 1, 0, 0, 0, 1, 22⟩) ∧
    (⟨104, 1, 6, 138, 2, 0, 22⟩ : Frame).cmd ∈ ([1, 2, 3, 4, 6, 7, 8, 10, 11, 12] : List Byte) ∧
    (⟨104, 1, 9, 7, 7, 0, 22⟩ : Frame).cmd ∉ ([1, 2, 3, 4, 6, 7, 8, 10, 11, 12] : List Byte) ∧
    (⟨104, 7, 0, 1, 94, 0, 22⟩ : Frame).cmd = 0 ∧ (⟨104, 1, 9, 7, 7, 0, 22⟩ : Frame).cmd ≠ 0 := by decide +kernel

/-- The ends of the index space. -/
theorem witness_FrameIndexSpaceIsSevenBytes :
    frameByte ⟨104, 1, 6, 138, 2, 147, 22⟩ 0 = some 104 ∧ frameByte ⟨104, 1, 6, 138, 2, 147, 22⟩ 6 = some 22 ∧
    frameByte ⟨104, 1, 6, 138, 2, 147, 22⟩ 7 = none := by decide

theorem witness_DecodeOfEncodeIsTheInstruction :
    (Instr.p2dDecUnknown ⟨104, 1, 9, 7, 7, 0, 22⟩).wellFormed = true ∧ (Instr.p2dEncOne (.cm 7000)).wellFormed = true := by
  decide

theorem witness_DecodedInstructionsAreWellFormed :
    decode (.p2dDecBuffer [104, 1, 12, 0, 0, 13, 22]) = .ok (.p2dDecResetThree ⟨104, 1, 12, 0, 0, 13, 22⟩) := rfl

theorem witness_TableWordRoundTrip :
    (Instr.p2dEncThree (.cm (725 / 10))).wellFormed = true ∧ wordDetermined (.p2dEncThree (.cm (725 / 10))) ∧
    (Instr.p2dEncUnknown 1 9 7 7 0).wellFormed = true ∧ wordDetermined (.p2dEncUnknown 1 9 7 7 0) ∧
    (Instr.h2b (.cm 65) (.cm 0)).wellFormed = true ∧ wordDetermined (.h2b (.cm 65) (.cm 0)) :=
  ⟨rfl, ⟨725, by omega, by norm_num⟩, rfl, ⟨by decide, by decide⟩, rfl, ⟨650, by omega, by norm_num⟩, rfl⟩

theorem witness_StepRunsTheDecodedInstruction :
    (⟨[.d2pDec ⟨104, 1, 1, 0, 0, 2, 22⟩, .isStart 0], [.bit true]⟩ : State).calls =
      .d2pDec ⟨104, 1, 1, 0, 0, 2, 22⟩ :: [.isStart 0] ∧
    decode (.d2pDec ⟨104, 1, 1, 0, 0, 2, 22⟩) = .ok (.d2pDecUnknown ⟨104, 1, 1, 0, 0, 2, 22⟩) := ⟨rfl, rfl⟩

theorem witness_PlacedTableWordRunsNext : decodeTableWord 16 0x028A = some (.b2h 2 138 (.cm 0)) := by decide +kernel

/-- The lengths 6 and 8 beside 7, for each of the three units, and each kind that is no message. -/
theorem witness_OnlyMalformedInputIsRefused :
    ([104, 1, 1, 0, 0, 2] : List Byte).length ≠ 7 ∧ ([104, 1, 1, 0, 0, 2, 22, 0] : List Byte).length ≠ 7 ∧
    answer (.p2dDecBuffer [104, 1, 1, 0, 0, 2]) = none ∧ answer (.p2dDecBuffer [104, 1, 1, 0, 0, 2, 22, 0]) = none ∧
    answer (.d2pDecBuffer [104, 1, 1, 0, 0, 2]) = none ∧ answer (.d2pDecBuffer [104, 1, 1, 0, 0, 2, 22, 0]) = none ∧
    answer (.validateBuffer [104, 1, 1, 0, 0, 2]) = none ∧ answer (.validateBuffer [104, 1, 1, 0, 0, 2, 22, 0]) = none ∧
    answer (.p2dDecBuffer [104, 1, 1, 0, 0, 2, 22]) = some (.p2d .up) ∧
    answer (.d2pDecBuffer [104, 1, 1, 0, 0, 2, 22]) = some (.d2p (.unknown 1 1 0 0 2)) ∧
    answer (.validateBuffer [104, 1, 1, 0, 0, 2, 22]) = some (.bit true) ∧
    (∀ k ∈ ([0, 5, 9, 13, 14] : List (BitVec 4)), answer (.p2dEncPort ⟨k, 0, default⟩) = none) ∧
    (⟨[.d2pDecBuffer [104, 1, 1, 0, 0, 2], .isStart 0], []⟩ : State).calls =
      .d2pDecBuffer [104, 1, 1, 0, 0, 2] :: [.isStart 0] := by decide +kernel

/-- Whatever the format, the heights its words stand for cross a port; a message without a height always does. -/
theorem witness_ReferenceCodingCarriesTheMessage :
    (∀ h, P2DMsg.two (Config.heightFmt 5) = .one h ∨ P2DMsg.two (Config.heightFmt 5) = .two h ∨
      P2DMsg.two (Config.heightFmt 5) = .three h → Config.heightFmt 5 = h) ∧
    (∀ h, D2PMsg.height (Config.heightFmt 5) = .height h → Config.heightFmt 5 = h) := by simp

theorem witness_UnknownBytesGoBetweenTheMarkers :
    (12 : Byte) ∈ ([1, 2, 3, 4, 6, 7, 8, 10, 11, 12] : List Byte) := by decide

/-- Both ends of the range of offset 0, and just outside each. -/
theorem witness_PresetsAreBuiltFromTheirHeightBytes :
    ((0 : Cm) ≤ 0 * 10 ∧ (0 : Cm) * 10 < 65536) ∧ ((0 : Cm) ≤ 655359 / 100 * 10 ∧ (655359 / 100 : Cm) * 10 < 65536) ∧
    (-1 / 10 : Cm) * 10 < 0 ∧ (65536 : Cm) ≤ 65536 / 10 * 10 := by norm_num

/-- Both ends of the range of offset 65, and just outside each. -/
theorem witness_HeightIsBuiltFromItsHeightBytes :
    ((0 : Cm) ≤ (65 - 65) * 10 ∧ (65 - 65 : Cm) * 10 < 65536) ∧
    ((0 : Cm) ≤ (661859 / 100 - 65) * 10 ∧ (661859 / 100 - 65 : Cm) * 10 < 65536) ∧
    (649 / 10 - 65 : Cm) * 10 < 0 ∧ (65536 : Cm) ≤ (66186 / 10 - 65) * 10 := by norm_num

theorem witness_HeightWordsStandForTheirHeights : ∃ msb lsb msb' lsb' : Byte,
    (msb, lsb) = Config.oorBytes (.nonFinite 0) (.cm 0) ∧ (msb', lsb') = Config.oorBytes (.nonFinite 0) (.cm 65) :=
  ⟨_, _, _, _, rfl, rfl⟩

theorem witness_EveryPresentableCallCompletes :
    presentable (.p2dEnc (.one (.cm 7000))) = true ∧ presentable (.p2dEncPort ⟨15, 0, default⟩) = true ∧
    presentable (.validateBuffer [0, 0, 0, 0, 0, 0, 0]) = true := by decide +kernel

theorem witness_EachCallIsAnsweredAsIfAlone :
    ∀ c ∈ ([.p2dEnc .up, .isStart 104, .p2dEnc .up] : List Call), presentable c = true := by decide

theorem witness_NothingHappensWithoutACall : (⟨[], [.bit true]⟩ : State).calls = [] := rfl

theorem witness_StepKeepsFramesValid :
    framesSound ⟨[.build 9 0 0], []⟩ ∧
    step ⟨[.build 9 0 0], []⟩ = .next ⟨[], [.frame ⟨104, 1, 9, 0, 0, 10, 22⟩]⟩ := ⟨by simp [framesSound], rfl⟩

theorem witness_StepKeepsMessagesDecodable :
    messagesSound ⟨[.p2dDec ⟨0, 0, 0, 0, 0, 0, 0⟩], []⟩ ∧
    step ⟨[.p2dDec ⟨0, 0, 0, 0, 0, 0, 0⟩], []⟩ = .next ⟨[], [.p2d (.unknown 0 0 0 0 0)]⟩ :=
  ⟨by simp [messagesSound], rfl⟩

theorem witness_EncodedFramesValidate : answer (.build 0 0 0) = some (.frame ⟨104, 1, 0, 0, 0, 1, 22⟩) := by decide

theorem witness_BuiltFramesCarryTheirChecksum :
    answer (.build 255 255 255) = some (.frame ⟨104, 1, 255, 255, 255, 254, 22⟩) ∧
    p2dIsUnknown .down = false ∧ answer (.p2dEnc .down) = some (.frame ⟨104, 1, 2, 0, 0, 3, 22⟩) ∧
    answer (.d2pEnc (.height (.cm 65))) = some (.frame ⟨104, 1, 0, 0, 0, 1, 22⟩) ∧
    answer (.p2dEnc (.unknown 1 9 7 7 0)) = some (.frame ⟨104, 1, 9, 7, 7, 0, 22⟩) ∧
    answer (.d2pEnc (.unknown 1 1 0 0 2)) = some (.frame ⟨104, 1, 1, 0, 0, 2, 22⟩) := by decide +kernel

theorem witness_BuildIsInjective : answer (.build 1 2 3) = answer (.build 1 2 3) := rfl

theorem witness_HeightRoundTrip :
    (0 : Cm) ≤ (6505 / 100 - 0) * 10 ∧ ((6505 / 100 - 0) * 10 : Cm) < 65536 := by norm_num

theorem witness_HeightEncodingIsMonotonic :
    (0 : Cm) ≤ (65 - 65) * 10 ∧ (65 : Cm) ≤ 66185 / 10 ∧ ((66185 / 10 - 65) * 10 : Cm) < 65536 := by norm_num

theorem witness_P2dMessageRoundTrip :
    p2dExact .deskReset ∧ p2dExact (.two (.cm (65535 / 10))) ∧ heightAfterTrip (.cm (6505 / 100)) 0 65 := by
  refine ⟨trivial, ⟨65535, by omega, by norm_num⟩, ?_⟩
  simp only [heightAfterTrip]
  rw [if_pos (by norm_num)]
  decide +kernel

theorem witness_P2dMessageRoundTrip_outOfRange :
    (∃ k, heightAfterTrip (.cm (-1)) 0 k) ∧ (∃ k, heightAfterTrip (.nonFinite 7) 0 k) := by
  refine ⟨?_, _, rfl⟩
  simp only [heightAfterTrip]
  split_ifs <;> exact ⟨_, rfl⟩

theorem witness_P2dKnownFrameRoundTrip :
    (⟨104, 9, 1, 200, 201, 77, 22⟩ : Frame).cmd ∈ ([1, 2, 3, 4, 6, 7, 8, 10, 11, 12] : List Byte) ∧
    (⟨0, 0, 7, 1, 94, 0, 0⟩ : Frame).cmd ∈ ([6, 7, 8] : List Byte) := by decide

theorem witness_P2dUnknownFramePassthrough :
    (⟨104, 1, 13, 0, 0, 14, 22⟩ : Frame).cmd ∉ ([1, 2, 3, 4, 6, 7, 8, 10, 11, 12] : List Byte) := by decide

theorem witness_D2pHeightRoundTrip :
    onGrid (.cm 65) 65 ∧ onGrid (.cm (66185 / 10)) 65 ∧ heightAfterTrip (.cm (6555 / 100)) 65 (655 / 10) := by
  refine ⟨⟨0, by omega, by norm_num⟩, ⟨65535, by omega, by norm_num⟩, ?_⟩
  simp only [heightAfterTrip]
  rw [if_pos (by norm_num)]
  decide +kernel

theorem witness_D2pHeightRoundTrip_outOfRange :
    (∃ k, heightAfterTrip (.cm 0) 65 k) ∧ (∃ k, heightAfterTrip (.nonFinite 7) 65 k) := by
  refine ⟨?_, _, rfl⟩
  simp only [heightAfterTrip]
  split_ifs <;> exact ⟨_, rfl⟩

theorem witness_D2pFrameRoundTrip :
    (⟨0, 0, 0, 1, 94, 0, 0⟩ : Frame).cmd = 0 ∧ (⟨104, 1, 255, 0, 0, 0, 22⟩ : Frame).cmd ≠ 0 := by decide

theorem witness_WrongDecoderGivesUnknown :
    canonicalD2P ⟨104, 1, 0, 1, 94, 96, 22⟩ ∧ canonicalP2D ⟨104, 1, 1, 0, 0, 2, 22⟩ ∧
    canonicalP2D ⟨104, 1, 8, 255, 255, 7, 22⟩ := by
  refine ⟨⟨⟨⟨rfl, rfl⟩, rfl, rfl⟩, rfl⟩, ⟨⟨⟨rfl, rfl⟩, rfl, rfl⟩, .inl ⟨by decide, rfl, rfl⟩⟩,
    ⟨⟨⟨rfl, rfl⟩, rfl, rfl⟩, .inr (by decide)⟩⟩

end Sys2Proof.Tests
end

section
/-! PROOF SUPPORT. What the host is answered, one lemma per row: the frames of the encoders (rules R140 to R151 and
R181), the messages of the decoders (rules R161 to R171, R186 and R187) and the validator's bit (rule R200). -/

namespace Sys2Proof.Machine

/-! ## Encoders: every message but `Unknown` goes through the frame builder -/

theorem checksum_toNat (addr cmd pa pb : Byte) :
    (checksum addr cmd pa pb).toNat = (addr.toNat + cmd.toNat + pa.toNat + pb.toNat) % 256 := by
  simp [checksum]

/-- Byte 5 of a built frame is the sum of its bytes 1 to 4 (R102). -/
theorem buildFrame_ck_toNat {cmd pa pb : Byte} {g : Frame} (hg : buildFrame cmd pa pb = g) :
    g.ck.toNat = (g.addr.toNat + g.cmd.toNat + g.pa.toNat + g.pb.toNat) % 256 := by
  subst hg
  exact checksum_toNat addrByte cmd pa pb

theorem answer_p2dEnc_eq_buildFrame {m : P2DMsg} (hm : p2dIsUnknown m = false) :
    ∃ cmd pa pb, answer (.p2dEnc m) = some (.frame (buildFrame cmd pa pb)) := by
  cases m
  case unknown => simp [p2dIsUnknown] at hm
  all_goals exact ⟨_, _, _, rfl⟩

theorem answer_d2pEnc_height (h : Height) : answer (.d2pEnc (.height h)) = some (.frame (hbFrame h)) := rfl

/-! ## Decoders and validator -/

section
variable {f : Frame}

/-- A Panel→Desk decode answers the message of the row its frame selects. -/
theorem answer_p2dDec_of_select {i : Instr} {m : P2DMsg} (hs : selectP2DDec f = i)
    (he : exec i { calls := [], results := [] } = .next { calls := [], results := [.p2d m] }) :
    answer (.p2dDec f) = some (.p2d m) :=
  answer_of_decode (congrArg Except.ok hs) he

theorem answer_p2dDec_up (h : f.cmd = 1#8) : answer (.p2dDec f) = some (.p2d .up) :=
  answer_p2dDec_of_select (i := .p2dDecUp f) (by simp [selectP2DDec, h]) rfl

theorem answer_p2dDec_down (h : f.cmd = 2#8) : answer (.p2dDec f) = some (.p2d .down) :=
  answer_p2dDec_of_select (i := .p2dDecDown f) (by simp [selectP2DDec, h]) rfl

theorem answer_p2dDec_noKey (h : f.cmd = 3#8) : answer (.p2dDec f) = some (.p2d .noKey) :=
  answer_p2dDec_of_select (i := .p2dDecNoKey f) (by simp [selectP2DDec, h]) rfl

theorem answer_p2dDec_deskReset (h : f.cmd = 4#8) : answer (.p2dDec f) = some (.p2d .deskReset) :=
  answer_p2dDec_of_select (i := .p2dDecDeskReset f) (by simp [selectP2DDec, h]) rfl

theorem answer_p2dDec_one (h : f.cmd = 6#8) : answer (.p2dDec f) = some (.p2d (.one (p2dHeight f))) :=
  answer_p2dDec_of_select (i := .p2dDecOne f) (by simp [selectP2DDec, h]) rfl

theorem answer_p2dDec_two (h : f.cmd = 7#8) : answer (.p2dDec f) = some (.p2d (.two (p2dHeight f))) :=
  answer_p2dDec_of_select (i := .p2dDecTwo f) (by simp [selectP2DDec, h]) rfl

theorem answer_p2dDec_three (h : f.cmd = 8#8) : answer (.p2dDec f) = some (.p2d (.three (p2dHeight f))) :=
  answer_p2dDec_of_select (i := .p2dDecThree f) (by simp [selectP2DDec, h]) rfl

theorem answer_p2dDec_resetOne (h : f.cmd = 10#8) : answer (.p2dDec f) = some (.p2d .resetOne) :=
  answer_p2dDec_of_select (i := .p2dDecResetOne f) (by simp [selectP2DDec, h]) rfl

theorem answer_p2dDec_resetTwo (h : f.cmd = 11#8) : answer (.p2dDec f) = some (.p2d .resetTwo) :=
  answer_p2dDec_of_select (i := .p2dDecResetTwo f) (by simp [selectP2DDec, h]) rfl

theorem answer_p2dDec_resetThree (h : f.cmd = 12#8) : answer (.p2dDec f) = some (.p2d .resetThree) :=
  answer_p2dDec_of_select (i := .p2dDecResetThree f) (by simp [selectP2DDec, h]) rfl

/-- The command bytes of the Panel→Desk table as the obligations write them. -/
theorem p2dKnown_iff_mem (c : Byte) :
    p2dKnown c = true ↔ c ∈ ([1, 2, 3, 4, 6, 7, 8, 10, 11, 12] : List Byte) := by
  simp [p2dKnown_iff]

theorem selectP2DDec_unknown (h : p2dKnown f.cmd = false) : selectP2DDec f = .p2dDecUnknown f := by
  have hn := mt (p2dKnown_iff f.cmd).2 (Bool.eq_false_iff.1 h)
  simp only [not_or] at hn
  simp [selectP2DDec, hn]

theorem answer_p2dDec_unknown (h : p2dKnown f.cmd = false) :
    answer (.p2dDec f) = some (.p2d (.unknown f.addr f.cmd f.pa f.pb f.ck)) :=
  answer_p2dDec_of_select (selectP2DDec_unknown h) rfl

theorem answer_d2pDec_height (h : f.cmd = 0#8) : answer (.d2pDec f) = some (.d2p (.height (d2pHeight f))) :=
  answer_of_decode (i := .d2pDecHeight f) (by simp [decode, selectD2PDec, h]) rfl

theorem answer_d2pDec_unknown (h : f.cmd ≠ 0#8) :
    answer (.d2pDec f) = some (.d2p (.unknown f.addr f.cmd f.pa f.pb f.ck)) :=
  answer_of_decode (i := .d2pDecUnknown f) (by simp [decode, selectD2PDec, h]) rfl

theorem answer_validate (f : Frame) : answer (.validate f) = some (.bit (markersMatch f)) := rfl

/-! ## What a known decode reads (rule R50) -/

/-- A known Panel→Desk decode reads the command byte and the payload alone. -/
theorem answer_p2dDec_congr_known {g : Frame} (hk : p2dKnown f.cmd = true) (hcmd : g.cmd = f.cmd)
    (hpa : g.pa = f.pa) (hpb : g.pb = f.pb) : answer (.p2dDec g) = answer (.p2dDec f) := by
  have hh : p2dHeight g = p2dHeight f := by simp only [p2dHeight, hpa, hpb]
  rcases (p2dKnown_iff f.cmd).1 hk with h | h | h | h | h | h | h | h | h | h
  · rw [answer_p2dDec_up h, answer_p2dDec_up (hcmd.trans h)]
  · rw [answer_p2dDec_down h, answer_p2dDec_down (hcmd.trans h)]
  · rw [answer_p2dDec_noKey h, answer_p2dDec_noKey (hcmd.trans h)]
  · rw [answer_p2dDec_deskReset h, answer_p2dDec_deskReset (hcmd.trans h)]
  · rw [answer_p2dDec_one h, answer_p2dDec_one (hcmd.trans h), hh]
  · rw [answer_p2dDec_two h, answer_p2dDec_two (hcmd.trans h), hh]
  · rw [answer_p2dDec_three h, answer_p2dDec_three (hcmd.trans h), hh]
  · rw [answer_p2dDec_resetOne h, answer_p2dDec_resetOne (hcmd.trans h)]
  · rw [answer_p2dDec_resetTwo h, answer_p2dDec_resetTwo (hcmd.trans h)]
  · rw [answer_p2dDec_resetThree h, answer_p2dDec_resetThree (hcmd.trans h)]

/-- A Desk→Panel `Height` decode reads the command byte and the payload alone. -/
theorem answer_d2pDec_congr_height {g : Frame} (h : f.cmd = 0#8) (hcmd : g.cmd = f.cmd)
    (hpa : g.pa = f.pa) (hpb : g.pb = f.pb) : answer (.d2pDec g) = answer (.d2pDec f) := by
  rw [answer_d2pDec_height h, answer_d2pDec_height (hcmd.trans h)]
  simp only [d2pHeight, hpa, hpb]

end

end Sys2Proof.Machine
end

section
/-! PROOF. The family of 00_scope: the checksum on encode and on decode, rule R6. -/

namespace Sys2Proof.Machine

/-- An answered frame is the one frame the call is known to answer. -/
theorem frame_eq_of_answer {c : Call} {g g' : Frame} (h : answer c = some (.frame g))
    (h' : answer c = some (.frame g')) : g = g' := by
  simpa [h] using h'

/-- Settles O18: on encode every known message is a frame of the frame builder; on decode byte 5 is read by the
`Unknown` rows alone, which copy it. -/
theorem checksumIsNeverVerified : Obligations.ChecksumIsNeverVerified := by
  unfold Obligations.ChecksumIsNeverVerified
  refine ⟨fun m g hm hg => ?_, fun h g hg => ?_,
    fun f ck => ⟨fun hk => ?_, fun hk => ?_, fun hc => ?_, fun hc => ?_, ?_⟩⟩
  · obtain ⟨cmd, pa, pb, hb⟩ := answer_p2dEnc_eq_buildFrame hm
    exact buildFrame_ck_toNat (frame_eq_of_answer hb hg)
  · exact buildFrame_ck_toNat (frame_eq_of_answer (answer_d2pEnc_height h) hg)
  · exact answer_p2dDec_congr_known ((p2dKnown_iff_mem f.cmd).2 hk) rfl rfl rfl
  · have hk' : p2dKnown f.cmd = false := Bool.eq_false_iff.2 (mt (p2dKnown_iff_mem f.cmd).1 hk)
    exact answer_p2dDec_unknown (f := { f with ck := ck }) hk'
  · exact answer_d2pDec_congr_height hc rfl rfl rfl
  · exact answer_d2pDec_unknown (f := { f with ck := ck }) hc
  · rw [answer_validate, answer_validate]
    rfl

end Sys2Proof.Machine
end

section
/-! PROOF. The family of 10_state: the frame and the completion of every instruction, rule R20. -/

namespace Sys2Proof.Machine

/-- What an instruction can do to a state, said once: it delivers one output, chosen from its operands before the
state is known. -/
theorem exists_exec_eq_deliver (i : Instr) : ∃ out, ∀ s, exec i s = deliver out s := by
  cases i <;> exact ⟨_, fun _ => rfl⟩

/-- Settles O16: every instruction ends by delivering its output, and `deliver` changes nothing else. -/
theorem everyInstructionIsAPureFunction : Obligations.EveryInstructionIsAPureFunction := by
  unfold Obligations.EveryInstructionIsAPureFunction
  intro i
  obtain ⟨out, hexec⟩ := exists_exec_eq_deliver i
  exact ⟨out, fun s => (hexec s).trans (deliver_eq out s)⟩

end Sys2Proof.Machine
end

section
/-! PROOF. The family of 20_memory: the frame index space, rule R40. -/

namespace Sys2Proof.Machine

/-- The byte at a frame index is the element of the frame's byte sequence at that position, so the index space of
rule R40 is that of a list of seven elements. -/
theorem frameByte_eq_getElem? (f : Frame) : ∀ i, frameByte f i = (frameBytes f)[i]?
  | 0 | 1 | 2 | 3 | 4 | 5 | 6 => rfl
  | _ + 7 => rfl

/-- A byte stands at the indices 0 to 6 and at no other. -/
theorem exists_frameByte_iff (f : Frame) (i : Nat) : (∃ b, frameByte f i = some b) ↔ i < 7 := by
  rw [frameByte_eq_getElem?, ← Option.isSome_iff_exists, isSome_getElem?, frameBytes_length]

/-- Seven bytes are read as a frame that holds them in the same order. -/
theorem exists_frameOfBytes_of_length {bytes : List Byte} (h : bytes.length = 7) :
    ∃ f, frameOfBytes bytes = some f ∧ frameBytes f = bytes := by
  have hne : frameOfBytes bytes ≠ none := fun hnone => (frameOfBytes_eq_none_iff bytes).1 hnone h
  obtain ⟨f, hf⟩ := Option.ne_none_iff_exists'.1 hne
  exact ⟨f, hf, frameBytes_of_frameOfBytes hf⟩

/-- Settles O55: a frame's bytes are a list of length seven, and every list of that length is read as a frame. -/
theorem framesHaveExactlySevenBytes : Obligations.FramesHaveExactlySevenBytes := by
  unfold Obligations.FramesHaveExactlySevenBytes
  refine ⟨exists_frameByte_iff, fun bytes => ⟨?_, exists_frameOfBytes_of_length⟩⟩
  rintro ⟨f, -, rfl⟩
  exact frameBytes_length f

end Sys2Proof.Machine
end

section
/-! PROOF. The family of 30_encoding: the row a decoder's frame selects and the bits of `F` that select it, rule
R66. -/

namespace Sys2Proof.Machine

/-! ## The command byte in the number `F` -/

/-- The mask of the decode rows keeps the command byte, in bits 39:32, and clears the other six bytes. -/
theorem frameBits_and_cmdMask (f : Frame) :
    frameBits f &&& 0x0000FF00000000#56 = f.cmd.setWidth 56 <<< 32 := by
  have hmask : 0x0000FF00000000#56 = (BitVec.allOnes 8).setWidth 56 <<< 32 := rfl
  rw [hmask]
  ext i hi
  simp only [frameBits, BitVec.getElem_and, BitVec.getElem_or, BitVec.getElem_shiftLeft, BitVec.getElem_setWidth,
    BitVec.getLsbD_allOnes]
  rcases lt_or_ge i 32 with hlow | hlow
  · simp [hlow]
  rcases lt_or_ge i 40 with hhigh | hhigh
  · simp [show i - 32 < 8 by omega, show i < 48 by omega, hhigh, hlow, BitVec.getLsbD_of_ge, show 8 ≤ i - 24 by omega,
      show 8 ≤ i - 16 by omega, show 8 ≤ i - 8 by omega, show 8 ≤ i by omega]
  · simp [show ¬ i - 32 < 8 by omega, BitVec.getLsbD_of_ge, show 8 ≤ i - 32 by omega]

theorem setWidth_shiftLeft_inj {c d : Byte} : c.setWidth 56 <<< 32 = d.setWidth 56 <<< 32 ↔ c = d := by
  refine ⟨fun h => ?_, fun h => h ▸ rfl⟩
  have hbyte : ∀ b : Byte, (b.setWidth 56 <<< 32).extractLsb' 32 8 = b := by
    intro b
    ext i hi
    simp [show 32 + i < 56 by omega, BitVec.getLsbD_eq_getElem hi]
  rw [← hbyte c, h, hbyte d]

/-- `F` under the mask of the decode rows is `c << 32` exactly when the command byte is `c`. -/
theorem frameBits_matches_iff (f : Frame) (c : Byte) :
    frameBits f &&& 0x0000FF00000000#56 = c.setWidth 56 <<< 32 ↔ f.cmd = c := by
  rw [frameBits_and_cmdMask, setWidth_shiftLeft_inj]

/-! ## The row a frame selects -/

/-- Of the Panel→Desk rows that read a frame, it selects the well-formed one. -/
theorem selectP2DDec_eq_iff (f : Frame) (i : Instr) :
    selectP2DDec f = i ↔ encode i = .p2dDec f ∧ i.wellFormed = true := by
  constructor
  · rintro rfl
    rcases selectP2DDec_cases f with ⟨h, hs⟩ | ⟨h, hs⟩ | ⟨h, hs⟩ | ⟨h, hs⟩ | ⟨h, hs⟩ | ⟨h, hs⟩ | ⟨h, hs⟩ | ⟨h, hs⟩ |
      ⟨h, hs⟩ | ⟨h, hs⟩ | ⟨h, hs⟩ <;> simp [hs, encode, Instr.wellFormed, h]
  · rintro ⟨he, hw⟩
    cases i <;> simp only [encode, reduceCtorEq, Call.p2dDec.injEq] at he <;> subst he
    case p2dDecUnknown => exact selectP2DDec_unknown (by simpa [Instr.wellFormed] using hw)
    all_goals
      simp only [Instr.wellFormed, beq_iff_eq] at hw
      simp [selectP2DDec, hw]

/-- Of the Desk→Panel rows that read a frame, it selects the well-formed one. -/
theorem selectD2PDec_eq_iff (f : Frame) (i : Instr) :
    selectD2PDec f = i ↔ encode i = .d2pDec f ∧ i.wellFormed = true := by
  constructor
  · rintro rfl
    rcases selectD2PDec_cases f with ⟨h, hs⟩ | ⟨h, hs⟩ <;> simp [hs, encode, Instr.wellFormed, d2pKnown, h]
  · rintro ⟨he, hw⟩
    cases i <;> simp only [encode, reduceCtorEq, Call.d2pDec.injEq] at he <;> subst he
    case d2pDecHeight => exact if_pos (by simpa [Instr.wellFormed] using hw)
    case d2pDecUnknown => exact if_neg (by simpa [Instr.wellFormed, d2pKnown] using hw)

theorem decode_p2dDec_eq_ok_iff (f : Frame) {i : Instr} (he : encode i = .p2dDec f) :
    decode (.p2dDec f) = .ok i ↔ i.wellFormed = true := by
  rw [decode, Except.ok.injEq, selectP2DDec_eq_iff, and_iff_right he]

theorem decode_d2pDec_eq_ok_iff (f : Frame) {i : Instr} (he : encode i = .d2pDec f) :
    decode (.d2pDec f) = .ok i ↔ i.wellFormed = true := by
  rw [decode, Except.ok.injEq, selectD2PDec_eq_iff, and_iff_right he]

/-! ## The match and mask of a row -/

/-- A Panel→Desk row with the command byte `c` is selected by the match `c << 32`. -/
theorem decode_p2dDec_eq_ok_iff_matches (f : Frame) (c : Byte) {i : Instr} (he : encode i = .p2dDec f)
    (hw : i.wellFormed = (f.cmd == c)) :
    decode (.p2dDec f) = .ok i ↔ frameBits f &&& 0x0000FF00000000#56 = c.setWidth 56 <<< 32 := by
  rw [decode_p2dDec_eq_ok_iff f he, hw, beq_iff_eq, frameBits_matches_iff]

/-- Settles O21: a row is selected when it is well formed, which is a test of the command byte, and the mask leaves
that byte alone of `F`. -/
theorem selectionIsTheTableMatchAndMask : Obligations.SelectionIsTheTableMatchAndMask := by
  unfold Obligations.SelectionIsTheTableMatchAndMask
  intro f
  have hzero : frameBits f &&& 0x0000FF00000000#56 = 0x00000000000000#56 ↔ f.cmd = 0 := frameBits_matches_iff f 0
  refine ⟨decode_p2dDec_eq_ok_iff_matches f 1 rfl rfl, decode_p2dDec_eq_ok_iff_matches f 2 rfl rfl,
    decode_p2dDec_eq_ok_iff_matches f 3 rfl rfl, decode_p2dDec_eq_ok_iff_matches f 4 rfl rfl,
    decode_p2dDec_eq_ok_iff_matches f 6 rfl rfl, decode_p2dDec_eq_ok_iff_matches f 7 rfl rfl,
    decode_p2dDec_eq_ok_iff_matches f 8 rfl rfl, decode_p2dDec_eq_ok_iff_matches f 10 rfl rfl,
    decode_p2dDec_eq_ok_iff_matches f 11 rfl rfl, decode_p2dDec_eq_ok_iff_matches f 12 rfl rfl, ?_, ?_, ?_⟩
  · have hmem := p2dKnown_iff_mem f.cmd
    rw [decode_p2dDec_eq_ok_iff f rfl]
    simp only [Instr.wellFormed, Bool.not_eq_true', ← Bool.not_eq_true, hmem, ne_eq, frameBits_matches_iff]
    exact ⟨fun hn c hc hfc => hn (hfc ▸ hc), fun hn hc => hn _ hc rfl⟩
  · rw [decode_d2pDec_eq_ok_iff f rfl, hzero, Instr.wellFormed, cmdHeight, beq_iff_eq]
  · rw [decode_d2pDec_eq_ok_iff f rfl, ne_eq, hzero]
    simp [Instr.wellFormed, d2pKnown]

end Sys2Proof.Machine
end

section
/-! PROOF. The family of 40_frame_builder_checksum: the checksum generator and the frame builder, rules R100, R102 and
R106. -/

namespace Sys2Proof.Machine

/-! ## The two leaf units -/

/-- `CKSUM` delivers the checksum of its four bytes (R100). -/
theorem exec_cksum_eq_deliver (addr cmd pa pb : Byte) (s : State) :
    exec (.cksum addr cmd pa pb) s = deliver (.checksum (checksum addr cmd pa pb)) s := rfl

/-- `BUILD` delivers the frame of its three bytes (R102). -/
theorem exec_build_eq_deliver (cmd pa pb : Byte) (s : State) :
    exec (.build cmd pa pb) s = deliver (.frame (buildFrame cmd pa pb)) s := rfl

/-- The seven bytes `BUILD` lays out, index by index. -/
theorem buildFrame_eq (cmd pa pb : Byte) :
    buildFrame cmd pa pb = ⟨104, 1, cmd, pa, pb, checksum 1 cmd pa pb, 22⟩ := rfl

/-- Settles O9: `CKSUM` delivers the checksum, whose value is the sum modulo 256. -/
theorem checksumIsSumModulo256 : Obligations.ChecksumIsSumModulo256 := by
  unfold Obligations.ChecksumIsSumModulo256
  intro s addr cmd pa pb
  refine ⟨checksum addr cmd pa pb, ?_, checksum_toNat addr cmd pa pb⟩
  rw [exec_cksum_eq_deliver, deliver_eq]

/-- Settles O10: `BUILD` delivers the envelope, with the checksum of address 1 and the three bytes at index 5. -/
theorem buildWritesTheEnvelope : Obligations.BuildWritesTheEnvelope := by
  unfold Obligations.BuildWritesTheEnvelope
  intro s cmd pa pb
  refine ⟨checksum 1 cmd pa pb, ?_, checksum_toNat 1 cmd pa pb⟩
  rw [exec_build_eq_deliver, deliver_eq, buildFrame_eq]

/-! ## Byte 5 of the frames the host is answered -/

theorem answer_build (cmd pa pb : Byte) :
    answer (.build cmd pa pb) = some (.frame (buildFrame cmd pa pb)) :=
  answer_of_decode rfl (exec_build_eq_deliver cmd pa pb _)

section
variable (a b c d e : Byte)

theorem answer_p2dEnc_unknown :
    answer (.p2dEnc (.unknown a b c d e)) = some (.frame (rawFrame a b c d e)) := rfl

theorem answer_d2pEnc_unknown :
    answer (.d2pEnc (.unknown a b c d e)) = some (.frame (rawFrame a b c d e)) := rfl

/-- An `Unknown` of either direction is answered with its five bytes between the markers. -/
theorem eq_rawFrame_of_answer_unknown {g : Frame}
    (hg : answer (.p2dEnc (.unknown a b c d e)) = some (.frame g) ∨
      answer (.d2pEnc (.unknown a b c d e)) = some (.frame g)) : g = rawFrame a b c d e := by
  rcases hg with hg | hg
  · exact frame_eq_of_answer hg (answer_p2dEnc_unknown a b c d e)
  · exact frame_eq_of_answer hg (answer_d2pEnc_unknown a b c d e)

end

/-- Settles O39: `BUILD` and the known messages go through the frame builder, which sums bytes 1 to 4 into byte 5; an
`Unknown` is copied, so its byte 5 is the caller's `e` and bytes 1 to 4 are the caller's other four. -/
theorem builtFramesCarryTheirChecksum : Obligations.BuiltFramesCarryTheirChecksum := by
  unfold Obligations.BuiltFramesCarryTheirChecksum
  obtain ⟨hp2d, hd2p, -⟩ := checksumIsNeverVerified
  refine ⟨fun cmd pa pb g hg => ?_, hp2d, hd2p, fun a b c d e g hg => ?_⟩
  · exact buildFrame_ck_toNat (frame_eq_of_answer (answer_build cmd pa pb) hg)
  · obtain rfl := eq_rawFrame_of_answer_unknown a b c d e hg
    exact Iff.rfl

end Sys2Proof.Machine
end

section
/-! PROOF. The family of 41_height: the two height units, rules R122, R123 and R125. -/

namespace Sys2Proof.Machine

/-! ## The two leaf units -/

/-- `H2B` delivers the byte pair of its height (R122 to R124). -/
theorem exec_h2b_eq_deliver (h off : Height) (s : State) :
    exec (.h2b h off) s = deliver (.bytePair (heightToBytes h off).1 (heightToBytes h off).2) s := rfl

/-- `B2H` delivers the height of its byte pair (R125). -/
theorem exec_b2h_eq_deliver (msb lsb : Byte) (off : Height) (s : State) :
    exec (.b2h msb lsb off) s = deliver (.height (bytesToHeight msb lsb off)) s := rfl

/-- `net_mm` with the millimetres of a centimetre as a numeral, as the obligations write it. -/
theorem netMm_eq (h off : Cm) : netMm h off = (h - off) * 10 := rfl

/-! ## Height to bytes -/

section
variable {h off : Cm} {n : Nat}

/-- In range the whole millimetres are a 16-bit number. -/
theorem exists_floor_netMm (hr : heightInRange h off) : ∃ n < 65536, ⌊netMm h off⌋ = ((n : Nat) : Int) := by
  obtain ⟨hlow, hhigh⟩ := hr
  obtain ⟨n, hn⟩ := Int.eq_ofNat_of_zero_le (Int.floor_nonneg.2 hlow)
  refine ⟨n, ?_, hn⟩
  have hlt : ⌊netMm h off⌋ < 65536 := Int.floor_lt.2 (mod_cast hhigh)
  omega

/-- In range the two bytes, as numbers, are the quotient and the remainder by 256 of the whole millimetres. -/
theorem heightToBytes_toNat (hr : heightInRange h off) (hlt : n < 65536) (hn : ⌊netMm h off⌋ = (n : Int)) :
    (heightToBytes (.cm h) (.cm off)).1.toNat = n / 256 ∧ (heightToBytes (.cm h) (.cm off)).2.toNat = n % 256 := by
  rw [heightToBytes_inRange hr hn]
  simp only [BitVec.toNat_ofNat]
  omega

end

/-- Settles O11: with `n` the whole millimetres, the bytes are `n / 256` and `n % 256`, and a floor passes through a
division by 256 and through the subtraction of a whole number. -/
theorem heightToBytesInRange : Obligations.HeightToBytesInRange := by
  unfold Obligations.HeightToBytesInRange
  intro s h off hlow hhigh
  have hr : heightInRange h off := ⟨hlow, hhigh⟩
  obtain ⟨n, hlt, hn⟩ := exists_floor_netMm hr
  obtain ⟨hmsb, hlsb⟩ := heightToBytes_toNat hr hlt hn
  refine ⟨_, _, (exec_h2b_eq_deliver _ _ s).trans (deliver_eq _ s), ?_⟩
  rw [hmsb, hlsb, ← netMm_eq]
  refine ⟨?_, ?_, ?_⟩
  · calc ((n / 256 : Nat) : Int) = ⌊netMm h off⌋ / 256 := by rw [hn, Int.natCast_div, Nat.cast_ofNat]
      _ = ⌊netMm h off / 256⌋ := (Int.floor_div_natCast _ 256).symm
  · calc ((n % 256 : Nat) : Int) = ⌊netMm h off⌋ - ((n / 256 * 256 : Nat) : Int) := by rw [hn]; omega
      _ = ⌊netMm h off - ((n / 256 * 256 : Nat) : Cm)⌋ := (Int.floor_sub_natCast _ _).symm
      _ = ⌊netMm h off - ((n / 256 : Nat) : Cm) * 256⌋ := by rw [Nat.cast_mul, Nat.cast_ofNat]
  · rw [hn]
    omega

/-! ## Bytes to height -/

/-- The millimetre count of two bytes as a rational. -/
theorem millimetres_cast (msb lsb : Byte) :
    (millimetres msb lsb : Cm) = 256 * (msb.toNat : Cm) + (lsb.toNat : Cm) := by
  simp [millimetres, byteRadix]

/-- Two bytes carry at most 65535 millimetres. -/
theorem millimetres_cast_le (msb lsb : Byte) : (millimetres msb lsb : Cm) ≤ 65535 :=
  mod_cast Nat.le_of_lt_succ (millimetres_lt msb lsb)

/-- Settles O13: the height is the millimetre count over ten above the offset, and that count is between 0 and 65535. -/
theorem bytesToHeightIsExact : Obligations.BytesToHeightIsExact := by
  unfold Obligations.BytesToHeightIsExact
  intro s msb lsb off
  have hlow : (0 : Cm) ≤ millimetres msb lsb := Nat.cast_nonneg _
  have hhigh := millimetres_cast_le msb lsb
  refine ⟨(millimetres msb lsb : Cm) / 10 + off, ?_, ?_, ?_, ?_, ?_, ?_⟩
  · rw [exec_b2h_eq_deliver, deliver_eq, bytesToHeight_cm]
  · rw [millimetres_cast]
  all_goals linarith

end Sys2Proof.Machine
end

section
/-! PROOF. The family of 42_panel_to_desk: the eleven messages Panel→Desk, encoded (rules R141 to R151) and decoded
(rules R161 to R171), and the `Unknown` of the other direction (rule R182). -/

namespace Sys2Proof.Machine

/-! ## Decoding: the row of a command byte -/

/-- A Panel→Desk row whose well-formedness is the test for the command byte `c` is selected exactly by that byte. -/
theorem decode_p2dDec_eq_ok_iff_cmd (f : Frame) (c : Byte) {i : Instr} (he : encode i = .p2dDec f)
    (hw : i.wellFormed = (f.cmd == c)) : decode (.p2dDec f) = .ok i ↔ f.cmd = c := by
  rw [decode_p2dDec_eq_ok_iff f he, hw, beq_iff_eq]

/-- Settles O4: each row delivers its message without reading its frame, and the command byte selects the row. -/
theorem p2dDecodeNoPayloadMessages : Obligations.P2dDecodeNoPayloadMessages := by
  unfold Obligations.P2dDecodeNoPayloadMessages
  intro s f
  exact ⟨deliver_eq (.p2d .up) s, deliver_eq (.p2d .down) s, deliver_eq (.p2d .noKey) s,
    deliver_eq (.p2d .deskReset) s, deliver_eq (.p2d .resetOne) s, deliver_eq (.p2d .resetTwo) s,
    deliver_eq (.p2d .resetThree) s, decode_p2dDec_eq_ok_iff_cmd f 1 rfl rfl,
    decode_p2dDec_eq_ok_iff_cmd f 2 rfl rfl, decode_p2dDec_eq_ok_iff_cmd f 3 rfl rfl,
    decode_p2dDec_eq_ok_iff_cmd f 4 rfl rfl, decode_p2dDec_eq_ok_iff_cmd f 10 rfl rfl,
    decode_p2dDec_eq_ok_iff_cmd f 11 rfl rfl, decode_p2dDec_eq_ok_iff_cmd f 12 rfl rfl⟩

/-- A Panel→Desk frame carries a tenth of the 16-bit number of its payload, low byte first (R43, R65). -/
theorem p2dHeight_eq (f : Frame) : p2dHeight f = .cm ((256 * (f.pb.toNat : Cm) + (f.pa.toNat : Cm)) / 10) := by
  rw [p2dHeight, bytesToHeight_cm, millimetres_cast, offP2D, add_zero]

/-- Settles O5: each preset row delivers the height its frame carries, and the command byte selects the row. -/
theorem p2dDecodePresetMessages : Obligations.P2dDecodePresetMessages := by
  unfold Obligations.P2dDecodePresetMessages
  intro s f h hh
  obtain rfl : h = p2dHeight f := hh.trans (p2dHeight_eq f).symm
  exact ⟨deliver_eq (.p2d (.one (p2dHeight f))) s, deliver_eq (.p2d (.two (p2dHeight f))) s,
    deliver_eq (.p2d (.three (p2dHeight f))) s, decode_p2dDec_eq_ok_iff_cmd f 6 rfl rfl,
    decode_p2dDec_eq_ok_iff_cmd f 7 rfl rfl, decode_p2dDec_eq_ok_iff_cmd f 8 rfl rfl⟩

/-- The bytes outside the Panel→Desk table: three gaps below its highest command byte, and all above it (R68). -/
theorem p2dKnown_eq_false_iff (c : Byte) :
    p2dKnown c = false ↔ c ∈ ([0, 5, 9] : List Byte) ∨ 13 ≤ c.toNat := by
  rw [← Bool.not_eq_true, p2dKnown_iff]
  simp only [List.mem_cons, List.not_mem_nil, or_false, BitVec.ofNat_eq_ofNat, ← BitVec.toNat_inj, BitVec.toNat_ofNat]
  omega

/-- Settles O6: the default row copies bytes 1 to 5, and it is selected by the bytes outside the table. -/
theorem p2dDecodeUnknownVerbatim : Obligations.P2dDecodeUnknownVerbatim := by
  unfold Obligations.P2dDecodeUnknownVerbatim
  intro s f
  refine ⟨deliver_eq (.p2d (.unknown f.addr f.cmd f.pa f.pb f.ck)) s, ?_⟩
  rw [decode_p2dDec_eq_ok_iff f rfl, Instr.wellFormed, Bool.not_eq_true', p2dKnown_eq_false_iff]

/-! ## Encoding: the frames of the frame builder -/

/-- The byte of a checksum, written with the sum `k` of the two bytes that the instruction fixes. -/
theorem checksum_eq_ofNat {addr cmd : Byte} {k : Nat} (hk : addr.toNat + cmd.toNat = k) (pa pb : Byte) :
    checksum addr cmd pa pb = BitVec.ofNat 8 ((k + pa.toNat + pb.toNat) % 256) := by
  rw [← hk, checksum, byteRadix]

/-- `BUILD` completes with the envelope, its checksum written with the sum `k` of address and command. -/
theorem exec_build_eq_next {cmd : Byte} {k : Nat} (hk : (1 : Byte).toNat + cmd.toNat = k) (pa pb : Byte) (s : State) :
    exec (.build cmd pa pb) s = .next { calls := s.calls, results := s.results ++
      [.frame ⟨104, 1, cmd, pa, pb, BitVec.ofNat 8 ((k + pa.toNat + pb.toNat) % 256), 22⟩] } := by
  rw [exec_build_eq_deliver, deliver_eq, buildFrame_eq, checksum_eq_ofNat hk]

/-- Settles O1: each row is `BUILD` of its command byte and an empty payload, whose checksum is the command byte and
one. -/
theorem p2dEncodeNoPayloadFrames : Obligations.P2dEncodeNoPayloadFrames := by
  unfold Obligations.P2dEncodeNoPayloadFrames
  intro s
  exact ⟨exec_build_eq_next (cmd := 1) rfl 0 0 s, exec_build_eq_next (cmd := 2) rfl 0 0 s,
    exec_build_eq_next (cmd := 3) rfl 0 0 s, exec_build_eq_next (cmd := 4) rfl 0 0 s,
    exec_build_eq_next (cmd := 10) rfl 0 0 s, exec_build_eq_next (cmd := 11) rfl 0 0 s,
    exec_build_eq_next (cmd := 12) rfl 0 0 s⟩

/-- In range the two bytes of `H2B`, high byte times 256 and low byte, are the whole millimetres (R122, R123). -/
theorem heightToBytes_sum {h off : Cm} (hr : heightInRange h off) :
    256 * ((heightToBytes (.cm h) (.cm off)).1.toNat : Int) + ((heightToBytes (.cm h) (.cm off)).2.toNat : Int) =
      ⌊netMm h off⌋ := by
  obtain ⟨n, hlt, hn⟩ := exists_floor_netMm hr
  obtain ⟨hmsb, hlsb⟩ := heightToBytes_toNat hr hlt hn
  rw [hmsb, hlsb, hn]
  omega

section
variable (h : Height) (s : State)

/-- `One` is `BUILD` of command 6 and the bytes of `H2B(h, 0)`, low byte first (R145). -/
theorem exec_p2dEncOne_eq_build :
    exec (.p2dEncOne h) s = exec (.build 6 (heightToBytes h (.cm 0)).2 (heightToBytes h (.cm 0)).1) s := rfl

/-- `Two` is `BUILD` of command 7 and the same two bytes (R146). -/
theorem exec_p2dEncTwo_eq_build :
    exec (.p2dEncTwo h) s = exec (.build 7 (heightToBytes h (.cm 0)).2 (heightToBytes h (.cm 0)).1) s := rfl

/-- `Three` is `BUILD` of command 8 and the same two bytes (R147). -/
theorem exec_p2dEncThree_eq_build :
    exec (.p2dEncThree h) s = exec (.build 8 (heightToBytes h (.cm 0)).2 (heightToBytes h (.cm 0)).1) s := rfl

end

/-- Settles O57: the bytes are those of `H2B(h, 0)`, and each preset is `BUILD` of its command byte and these two. -/
theorem presetsAreBuiltFromTheirHeightBytes : Obligations.PresetsAreBuiltFromTheirHeightBytes := by
  unfold Obligations.PresetsAreBuiltFromTheirHeightBytes
  intro s h
  have hnet : netMm h 0 = h * 10 := by rw [netMm_eq, sub_zero]
  have hone := exec_p2dEncOne_eq_build (.cm h) s
  have htwo := exec_p2dEncTwo_eq_build (.cm h) s
  have hthree := exec_p2dEncThree_eq_build (.cm h) s
  refine ⟨_, _, (exec_h2b_eq_deliver _ _ s).trans (deliver_eq _ s), fun hlow hhigh => ?_, fun hout => ?_,
    hone.trans (exec_build_eq_next rfl _ _ s), htwo.trans (exec_build_eq_next rfl _ _ s),
    hthree.trans (exec_build_eq_next rfl _ _ s), hone, htwo, hthree⟩
  · rw [← hnet] at hlow hhigh ⊢
    exact heightToBytes_sum ⟨hlow, hhigh⟩
  · rw [← hnet] at hout
    exact heightToBytes_outOfRange (by rwa [heightInRange, not_and_or, not_le, not_lt])

/-! ## `Unknown` of either direction -/

/-- A known command byte decodes Panel→Desk to a message other than `Unknown` (R161 to R170). -/
theorem exists_answer_p2dDec_of_known {f : Frame} (hk : p2dKnown f.cmd = true) :
    ∃ m, answer (.p2dDec f) = some (.p2d m) ∧ p2dIsUnknown m = false := by
  rcases (p2dKnown_iff f.cmd).1 hk with h | h | h | h | h | h | h | h | h | h
  · exact ⟨_, answer_p2dDec_up h, rfl⟩
  · exact ⟨_, answer_p2dDec_down h, rfl⟩
  · exact ⟨_, answer_p2dDec_noKey h, rfl⟩
  · exact ⟨_, answer_p2dDec_deskReset h, rfl⟩
  · exact ⟨_, answer_p2dDec_one h, rfl⟩
  · exact ⟨_, answer_p2dDec_two h, rfl⟩
  · exact ⟨_, answer_p2dDec_three h, rfl⟩
  · exact ⟨_, answer_p2dDec_resetOne h, rfl⟩
  · exact ⟨_, answer_p2dDec_resetTwo h, rfl⟩
  · exact ⟨_, answer_p2dDec_resetThree h, rfl⟩

/-- Settles O54: both rows deliver the raw frame, and its command byte `b` alone selects the row that decodes it. -/
theorem unknownBytesGoBetweenTheMarkers : Obligations.UnknownBytesGoBetweenTheMarkers := by
  unfold Obligations.UnknownBytesGoBetweenTheMarkers
  intro s a b c d e
  exact ⟨deliver_eq (.frame (rawFrame a b c d e)) s, deliver_eq (.frame (rawFrame a b c d e)) s,
    fun hb => exists_answer_p2dDec_of_known ((p2dKnown_iff_mem b).2 hb), fun hb => ⟨_, answer_d2pDec_height hb⟩⟩

end Sys2Proof.Machine
end

section
/-! PROOF. The family of 43_desk_to_panel: the message `Height` Desk→Panel, encoded (rule R181), and the two messages
decoded (rules R186 and R187). -/

namespace Sys2Proof.Machine

/-! ## Decoding: the two rows -/

/-- A Desk→Panel frame carries, above 65 cm, a tenth of the 16-bit number of its payload, high byte first (R43, R65). -/
theorem d2pHeight_eq (f : Frame) : d2pHeight f = .cm ((256 * (f.pa.toNat : Cm) + (f.pb.toNat : Cm)) / 10 + 65) := by
  rw [d2pHeight, bytesToHeight_cm, millimetres_cast, offD2P]

/-- The Desk→Panel table has the one key 0: every other byte is unrecognised (R64, R69). -/
theorem d2pKnown_eq_false_iff (c : Byte) : d2pKnown c = false ↔ c ≠ 0 := by
  rw [d2pKnown, cmdHeight, beq_eq_false_iff_ne]

/-- Settles O8: one row delivers the height its frame carries, the other copies bytes 1 to 5, and the test of the command
byte for 0 selects between them. -/
theorem d2pDecodeMessages : Obligations.D2pDecodeMessages := by
  unfold Obligations.D2pDecodeMessages
  intro s f
  rw [← d2pHeight_eq]
  refine ⟨deliver_eq (.d2p (.height (d2pHeight f))) s, deliver_eq (.d2p (.unknown f.addr f.cmd f.pa f.pb f.ck)) s,
    ?_, ?_⟩
  · rw [decode_d2pDec_eq_ok_iff f rfl, Instr.wellFormed, cmdHeight, beq_iff_eq]
  · rw [decode_d2pDec_eq_ok_iff f rfl, Instr.wellFormed, Bool.not_eq_true', d2pKnown_eq_false_iff]

/-! ## Encoding `Height` -/

/-- `Height` is `BUILD` of command 0 and the bytes of `H2B(h, 65)`, high byte first (R181). -/
theorem exec_d2pEncHeight_eq_build (h : Height) (s : State) :
    exec (.d2pEncHeight h) s = exec (.build 0 (heightToBytes h (.cm 65)).1 (heightToBytes h (.cm 65)).2) s := rfl

/-- Out of range is below the offset or from 65536 mm above it (R122). -/
theorem not_heightInRange_iff (h off : Cm) : ¬ heightInRange h off ↔ netMm h off < 0 ∨ 65536 ≤ netMm h off := by
  rw [heightInRange, not_and_or, not_le, not_lt]

/-- Settles O58: the bytes are those of `H2B(h, 65)`, and `Height` is `BUILD` of command 0 and these two. -/
theorem heightIsBuiltFromItsHeightBytes : Obligations.HeightIsBuiltFromItsHeightBytes := by
  unfold Obligations.HeightIsBuiltFromItsHeightBytes
  intro s h
  have hbuild := exec_d2pEncHeight_eq_build (.cm h) s
  exact ⟨_, _, (exec_h2b_eq_deliver _ _ s).trans (deliver_eq _ s),
    fun hlow hhigh => heightToBytes_sum ⟨hlow, hhigh⟩,
    fun hout => heightToBytes_outOfRange ((not_heightInRange_iff h 65).2 hout),
    hbuild.trans (exec_build_eq_next rfl _ _ s), hbuild⟩

end Sys2Proof.Machine
end

section
/-! PROOF. The family of 44_validator: the two marker tests, rules R200 to R202. -/

namespace Sys2Proof.Machine

/-! ## The two leaf units -/

/-- `VALIDATE` delivers the test of the two markers (R200). -/
theorem exec_validate_eq_deliver (f : Frame) (s : State) :
    exec (.validate f) s = deliver (.bit (markersMatch f)) s := rfl

/-- `IS_START` delivers the test for the start marker (R202). -/
theorem exec_isStart_eq_deliver (b : Byte) (s : State) :
    exec (.isStart b) s = deliver (.bit (isStartMarker b)) s := rfl

theorem markersMatch_iff (f : Frame) : markersMatch f = true ↔ f.start = 104 ∧ f.endMark = 22 := by
  rw [markersMatch, Bool.and_eq_true, beq_iff_eq, beq_iff_eq, startMarker, endMarker]

theorem isStartMarker_iff (b : Byte) : isStartMarker b = true ↔ b.toNat = 104 := by
  rw [isStartMarker, startMarker, beq_iff_eq, ← BitVec.toNat_inj]
  rfl

/-- Settles O15: `IS_START` delivers the test for the start marker, a byte of value 104. -/
theorem isStartTestsTheStartMarker : Obligations.IsStartTestsTheStartMarker := by
  unfold Obligations.IsStartTestsTheStartMarker
  intro s b
  exact ⟨isStartMarker b, (exec_isStart_eq_deliver b s).trans (deliver_eq _ s), isStartMarker_iff b⟩

/-! ## The markers in the number `F` -/

/-- `F` is the seven bytes one after another, `f[0]` on top (00_scope 7.2); bytes 1 to 5 stand together between the
markers. -/
theorem frameBits_eq_append (f : Frame) :
    frameBits f = f.start ++ (f.addr ++ f.cmd ++ f.pa ++ f.pb ++ f.ck) ++ f.endMark := by
  rw [← BitVec.setWidth_eq (f.start ++ (f.addr ++ f.cmd ++ f.pa ++ f.pb ++ f.ck) ++ f.endMark)]
  simp only [frameBits, BitVec.setWidth_append_eq_shiftLeft_setWidth_or, BitVec.shiftLeft_or_distrib,
    ← BitVec.shiftLeft_add, BitVec.or_assoc]

/-- The mask of `VALIDATE` keeps the bytes 0 and 6 and clears the five between them. -/
theorem frameBits_and_markerMask (f : Frame) :
    frameBits f &&& 0xFF0000000000FF#56 = f.start ++ 0#40 ++ f.endMark := by
  have hmask : 0xFF0000000000FF#56 = BitVec.allOnes 8 ++ 0#40 ++ BitVec.allOnes 8 := rfl
  rw [frameBits_eq_append, hmask, BitVec.and_append, BitVec.and_append, BitVec.and_allOnes, BitVec.and_allOnes,
    BitVec.and_zero]

/-- `F` under the mask of `VALIDATE` is the two marker values exactly when the bytes 0 and 6 are the markers. -/
theorem frameBits_matches_markers_iff (f : Frame) :
    frameBits f &&& 0xFF0000000000FF#56 = 0x68000000000016#56 ↔ f.start = 104 ∧ f.endMark = 22 := by
  have hmatch : 0x68000000000016#56 = (104 : Byte) ++ 0#40 ++ (22 : Byte) := rfl
  rw [frameBits_and_markerMask, hmatch]
  constructor
  · intro h
    have hend := congrArg (BitVec.setWidth 8) h
    rw [BitVec.setWidth_append_eq_right, BitVec.setWidth_append_eq_right] at hend
    rw [hend, BitVec.append_left_inj, BitVec.append_left_inj] at h
    exact ⟨h, hend⟩
  · rintro ⟨hstart, hend⟩
    rw [hstart, hend]

/-- Settles O14: `VALIDATE` delivers the test of the bytes 0 and 6, and the mask leaves these two alone of `F`. -/
theorem validateTestsTheMarkersAlone : Obligations.ValidateTestsTheMarkersAlone := by
  unfold Obligations.ValidateTestsTheMarkersAlone
  intro s f
  exact ⟨markersMatch f, (exec_validate_eq_deliver f s).trans (deliver_eq _ s), markersMatch_iff f,
    (markersMatch_iff f).trans (frameBits_matches_markers_iff f).symm⟩

end Sys2Proof.Machine
end

section
/-! PROOF. The family of 60_exceptions: every operation completes (rule R220), encode and decode are total (rules R221
and R222), and the inputs that are no values of a port's type (rule R230). -/

namespace Sys2Proof.Machine

/-! ## Encode and decode -/

/-- `P2D_ENC` answers an `Unknown` with its bytes between the markers and every other message through the frame
builder. -/
theorem exists_answer_p2dEnc_eq_frame (m : P2DMsg) : ∃ g, answer (.p2dEnc m) = some (.frame g) := by
  have hbuilt (hm : p2dIsUnknown m = false) : ∃ g, answer (.p2dEnc m) = some (.frame g) := by
    obtain ⟨_, _, _, hbuild⟩ := answer_p2dEnc_eq_buildFrame hm
    exact ⟨_, hbuild⟩
  cases m
  case unknown a b c d e => exact ⟨_, answer_p2dEnc_unknown a b c d e⟩
  all_goals exact hbuilt rfl

theorem exists_answer_d2pEnc_eq_frame (m : D2PMsg) : ∃ g, answer (.d2pEnc m) = some (.frame g) := by
  cases m with
  | height h => exact ⟨_, answer_d2pEnc_height h⟩
  | unknown a b c d e => exact ⟨_, answer_d2pEnc_unknown a b c d e⟩

theorem exists_answer_p2dDec_eq_p2d (f : Frame) : ∃ m, answer (.p2dDec f) = some (.p2d m) := by
  cases hk : p2dKnown f.cmd with
  | true =>
    obtain ⟨m, hm, -⟩ := exists_answer_p2dDec_of_known hk
    exact ⟨m, hm⟩
  | false => exact ⟨_, answer_p2dDec_unknown hk⟩

theorem exists_answer_d2pDec_eq_d2p (f : Frame) : ∃ m, answer (.d2pDec f) = some (.d2p m) := by
  by_cases h : f.cmd = 0#8
  · exact ⟨_, answer_d2pDec_height h⟩
  · exact ⟨_, answer_d2pDec_unknown h⟩

/-- Settles O30: an encoder has a frame for each message, a decoder a message for each command byte, known or not. -/
theorem encodeAndDecodeAreTotal : Obligations.EncodeAndDecodeAreTotal := by
  unfold Obligations.EncodeAndDecodeAreTotal
  exact ⟨exists_answer_p2dEnc_eq_frame, exists_answer_d2pEnc_eq_frame, exists_answer_p2dDec_eq_p2d,
    exists_answer_d2pDec_eq_d2p, fun cmd pa pb => ⟨_, answer_build cmd pa pb⟩⟩

/-! ## Which calls select a row -/

/-- A message tag names no constructor exactly when it is 0, 5, 9, 13 or 14 (R32). -/
theorem p2dOfPort_eq_none_iff (p : P2DPort) :
    p2dOfPort p = none ↔ p.kind ∈ ([0, 5, 9, 13, 14] : List (BitVec 4)) := by
  have htags : ∀ k : BitVec 4, k ∈ ([0, 5, 9, 13, 14] : List (BitVec 4)) ↔
      k ∉ ([1, 2, 3, 4, 6, 7, 8, 10, 11, 12, 15] : List (BitVec 4)) := by decide
  rw [htags]
  simp [p2dOfPort, ite_eq_iff]

/-- A buffer selects a row of a frame-reading unit exactly when it has seven bytes (R230). -/
theorem exists_decodeBuffer_eq_ok_iff (select : Frame → Instr) (bytes : List Byte) :
    (∃ i, decodeBuffer select bytes = .ok i) ↔ bytes.length = 7 := by
  rcases decodeBuffer_cases select bytes with ⟨hlen, herr⟩ | ⟨f, rfl, hok⟩
  · simp [herr, hlen]
  · simp [hok]

/-- A call selects a row exactly when its inputs are values of the port types (R230). -/
theorem exists_decode_eq_ok_iff (c : Call) : (∃ i, decode c = .ok i) ↔ presentable c = true := by
  cases c
  case p2dEncPort p =>
    rw [presentable, Bool.not_eq_true', decide_eq_false_iff_not, ← p2dOfPort_eq_none_iff]
    cases hm : p2dOfPort p <;> simp [decode, hm]
  case p2dDecBuffer bytes => simpa [presentable, decode] using exists_decodeBuffer_eq_ok_iff selectP2DDec bytes
  case d2pDecBuffer bytes => simpa [presentable, decode] using exists_decodeBuffer_eq_ok_iff selectD2PDec bytes
  case validateBuffer bytes => simpa [presentable, decode] using exists_decodeBuffer_eq_ok_iff Instr.validate bytes
  all_goals exact iff_of_true ⟨_, rfl⟩ rfl

/-! ## A call that selects a row completes -/

/-- One output, which the call alone fixes, is what the host is answered and what a step appends in every state. -/
theorem exists_output_of_decode {c : Call} {i : Instr} (hd : decode c = .ok i) :
    ∃ out, answer c = some out ∧ ∀ (cs : List Call) (r : List Output),
      step { calls := c :: cs, results := r } = .next { calls := cs, results := r ++ [out] } := by
  obtain ⟨out, hexec⟩ := exists_exec_eq_deliver i
  refine ⟨out, answer_of_decode hd (hexec _), fun cs r => ?_⟩
  rw [step_call, hd]
  exact hexec _

/-- Settles O31: values of the port types select a row, and every row delivers an output fixed by its operands. -/
theorem everyPresentableCallCompletes : Obligations.EveryPresentableCallCompletes := by
  unfold Obligations.EveryPresentableCallCompletes
  rintro ⟨_, results⟩ c cs rfl hc
  obtain ⟨i, hd⟩ := (exists_decode_eq_ok_iff c).2 hc
  obtain ⟨out, hanswer, hstep⟩ := exists_output_of_decode hd
  exact ⟨out, hanswer, hstep cs results⟩

end Sys2Proof.Machine
end

section
/-! PROOF. The family of 30_encoding, calls: `decode` and `encode` are inverse to each other (sections 2 and 6). -/

namespace Sys2Proof.Machine

/-! ## From an instruction to its call and back -/

/-- A well-formed decode row is the one its frame selects; the call of any other row writes out its operands. -/
theorem decode_encode {i : Instr} (hw : i.wellFormed = true) : decode (encode i) = .ok i := by
  cases i
  case p2dDecUp f | p2dDecDown f | p2dDecNoKey f | p2dDecDeskReset f | p2dDecOne f | p2dDecTwo f | p2dDecThree f |
      p2dDecResetOne f | p2dDecResetTwo f | p2dDecResetThree f | p2dDecUnknown f =>
    exact (decode_p2dDec_eq_ok_iff f rfl).2 hw
  case d2pDecHeight f | d2pDecUnknown f => exact (decode_d2pDec_eq_ok_iff f rfl).2 hw
  all_goals rfl

/-- Settles O23: the call of a well-formed instruction selects it. -/
theorem decodeOfEncodeIsTheInstruction : Obligations.DecodeOfEncodeIsTheInstruction := by
  unfold Obligations.DecodeOfEncodeIsTheInstruction
  exact fun _ hw => decode_encode hw

/-! ## Every selected row is well formed -/

theorem wellFormed_selectP2DEnc (m : P2DMsg) : (selectP2DEnc m).wellFormed = true := by
  cases m <;> rfl

theorem wellFormed_selectD2PEnc (m : D2PMsg) : (selectD2PEnc m).wellFormed = true := by
  cases m <;> rfl

theorem wellFormed_selectP2DDec (f : Frame) : (selectP2DDec f).wellFormed = true :=
  ((selectP2DDec_eq_iff f _).1 rfl).2

theorem wellFormed_selectD2PDec (f : Frame) : (selectD2PDec f).wellFormed = true :=
  ((selectD2PDec_eq_iff f _).1 rfl).2

/-- A buffer that is accepted selects a well-formed row if every frame does. -/
theorem wellFormed_of_decodeBuffer {select : Frame → Instr} (hselect : ∀ f, (select f).wellFormed = true)
    {bytes : List Byte} {i : Instr} (hd : decodeBuffer select bytes = .ok i) : i.wellFormed = true := by
  rcases decodeBuffer_cases select bytes with ⟨-, herr⟩ | ⟨f, -, hok⟩
  · rw [herr] at hd
    cases hd
  · rw [hok, Except.ok.injEq] at hd
    exact hd ▸ hselect f

theorem wellFormed_of_decode {c : Call} {i : Instr} (hd : decode c = .ok i) : i.wellFormed = true := by
  cases c
  case p2dEncPort p =>
    rw [decode] at hd
    cases hm : p2dOfPort p with
    | none => simp [hm] at hd
    | some m =>
      rw [hm, Except.ok.injEq] at hd
      exact hd ▸ wellFormed_selectP2DEnc m
  case p2dDecBuffer bytes => exact wellFormed_of_decodeBuffer wellFormed_selectP2DDec hd
  case d2pDecBuffer bytes => exact wellFormed_of_decodeBuffer wellFormed_selectD2PDec hd
  case validateBuffer bytes => exact wellFormed_of_decodeBuffer (fun _ => rfl) hd
  all_goals
    rw [decode, Except.ok.injEq] at hd
    subst hd
  case p2dEnc m => exact wellFormed_selectP2DEnc m
  case d2pEnc m => exact wellFormed_selectD2PEnc m
  case p2dDec f => exact wellFormed_selectP2DDec f
  case d2pDec f => exact wellFormed_selectD2PDec f
  case d2pEncPort p => exact wellFormed_selectD2PEnc (d2pOfPort p)
  all_goals rfl

/-- Settles O24: every row a call selects is well formed, so its typed call selects it too, and calls that decode alike
are answered alike. -/
theorem decodedInstructionsAreWellFormed : Obligations.DecodedInstructionsAreWellFormed := by
  unfold Obligations.DecodedInstructionsAreWellFormed
  intro c i hd
  have hw := wellFormed_of_decode hd
  exact ⟨hw, answer_congr ((decode_encode hw).trans hd.symm)⟩

/-- Settles O22: the row a frame selects is well formed, and every well-formed row of that frame is the selected one. -/
theorem exactlyOneDecodeRowApplies : Obligations.ExactlyOneDecodeRowApplies := by
  unfold Obligations.ExactlyOneDecodeRowApplies
  intro f
  refine ⟨⟨selectP2DDec f, ?_, fun i hi => ?_⟩, ⟨selectD2PDec f, ?_, fun i hi => ?_⟩⟩
  · exact ((selectP2DDec_eq_iff f _).1 rfl).symm
  · exact ((selectP2DDec_eq_iff f i).2 hi.symm).symm
  · exact ((selectD2PDec_eq_iff f _).1 rfl).symm
  · exact ((selectD2PDec_eq_iff f i).2 hi.symm).symm

/-- Settles O3: both encode rows deliver the raw frame, and the decoder's default row is selected by its command byte
alone. -/
theorem unknownEncodedVerbatim : Obligations.UnknownEncodedVerbatim := by
  unfold Obligations.UnknownEncodedVerbatim
  intro s a b c d e
  refine ⟨deliver_eq (.frame (rawFrame a b c d e)) s, deliver_eq (.frame (rawFrame a b c d e)) s, ?_, ?_⟩
  · rw [decode_p2dDec_eq_ok_iff _ rfl, Instr.wellFormed, Bool.not_eq_true', ← Bool.not_eq_true, p2dKnown_iff_mem]
  · rw [decode_d2pDec_eq_ok_iff _ rfl, Instr.wellFormed, Bool.not_eq_true', d2pKnown_eq_false_iff]

/-! ## Reference coding of a message port (10_state section 3) -/

/-- A port that holds a message selects the row of that message. -/
theorem decode_p2dEncPort {p : P2DPort} {m : P2DMsg} (hm : p2dOfPort p = some m) :
    decode (.p2dEncPort p) = decode (.p2dEnc m) := by
  rw [decode, decode, hm]

theorem decode_d2pEncPort (p : D2PPort) : decode (.d2pEncPort p) = decode (.d2pEnc (d2pOfPort p)) := rfl

section
variable {word : Height → HeightWord}

/-- A message put on a port is read back, if the word written for its height stands for that height. -/
theorem p2dOfPort_p2dToPort (free : P2DPort) {m : P2DMsg}
    (hword : ∀ h, m = .one h ∨ m = .two h ∨ m = .three h → Config.heightFmt (word h) = h) :
    p2dOfPort (p2dToPort word free m) = some m := by
  cases m
  case one h => exact congrArg (fun k => some (P2DMsg.one k)) (hword h (.inl rfl))
  case two h => exact congrArg (fun k => some (P2DMsg.two k)) (hword h (.inr (.inl rfl)))
  case three h => exact congrArg (fun k => some (P2DMsg.three k)) (hword h (.inr (.inr rfl)))
  all_goals rfl

theorem d2pOfPort_d2pToPort (free : D2PPort) {m : D2PMsg}
    (hword : ∀ h, m = .height h → Config.heightFmt (word h) = h) :
    d2pOfPort (d2pToPort word free m) = m := by
  cases m with
  | height h => exact congrArg D2PMsg.height (hword h rfl)
  | unknown a b c d e => rfl

end

/-- Settles O26: the port holds the message, so it selects the message's row; the tags that hold none are named in
`p2dOfPort_eq_none_iff`. -/
theorem referenceCodingCarriesTheMessage : Obligations.ReferenceCodingCarriesTheMessage := by
  unfold Obligations.ReferenceCodingCarriesTheMessage
  refine ⟨fun word free m hword => ?_, fun word free m hword => ?_, p2dOfPort_eq_none_iff⟩
  · have hm := p2dOfPort_p2dToPort free hword
    exact ⟨hm, answer_congr (decode_p2dEncPort hm)⟩
  · have hm := d2pOfPort_d2pToPort free hword
    refine ⟨hm, answer_congr ?_⟩
    rw [decode_d2pEncPort, hm]

end Sys2Proof.Machine
end

section
/-! PROOF. The families of 20_memory and 70_reset_and_hazards: what a step does with the next call, what a run of steps
answers, and what every step keeps. -/

namespace Sys2Proof.Machine

/-! ## One step -/

section
variable {c : Call} {cs : List Call} {r : List Output}

theorem step_of_decode {i : Instr} (hd : decode c = .ok i) :
    step { calls := c :: cs, results := r } = exec i { calls := cs, results := r } := by
  rw [step_call, hd]

theorem step_of_reject {why : Reject} (hd : decode c = .error why) :
    step { calls := c :: cs, results := r } = .refused (.rejected why) := by
  rw [step_call, hd]

end

theorem step_idle {s : State} (h : s.calls = []) : step s = .next s := by
  obtain ⟨_, results⟩ := s
  subst h
  rfl

/-- What a step that completes has done: nothing, with no call pending, or it took the oldest call and delivered the
output of the row that call selects. -/
theorem step_eq_next_cases {s t : State} (h : step s = .next t) :
    t = s ∨ ∃ c i out, decode c = .ok i ∧ (∀ u, exec i u = deliver out u) ∧
      s.calls = c :: t.calls ∧ t.results = s.results ++ [out] := by
  obtain ⟨_ | ⟨c, cs⟩, results⟩ := s
  · rw [step_idle rfl, Host.Outcome.next.injEq] at h
    exact .inl h.symm
  · cases hd : decode c with
    | error why =>
      rw [step_of_reject hd] at h
      cases h
    | ok i =>
      obtain ⟨out, hexec⟩ := exists_exec_eq_deliver i
      rw [step_of_decode hd, hexec, deliver_eq, Host.Outcome.next.injEq] at h
      subst h
      exact .inr ⟨c, i, out, hd, hexec, rfl, rfl⟩

/-- Settles O33: with no call to fetch, `step` answers the state it was given. -/
theorem nothingHappensWithoutACall : Obligations.NothingHappensWithoutACall := by
  unfold Obligations.NothingHappensWithoutACall
  exact fun _ h => step_idle h

/-- Settles O27: `fetch` takes the call off the list, and `step` runs the row it selects in the state that is left. -/
theorem stepRunsTheDecodedInstruction : Obligations.StepRunsTheDecodedInstruction := by
  unfold Obligations.StepRunsTheDecodedInstruction
  rintro ⟨_, results⟩ c cs i rfl hd
  exact step_of_decode hd

/-! ## A call that is refused -/

/-- A buffer of another length than seven is refused with that length. -/
theorem decodeBuffer_of_length_ne (select : Frame → Instr) {bytes : List Byte} (h : bytes.length ≠ 7) :
    decodeBuffer select bytes = .error (.wrongLength bytes.length) := by
  rw [decodeBuffer, (frameOfBytes_eq_none_iff bytes).2 h]

theorem decodeBuffer_frameBytes (select : Frame → Instr) (f : Frame) :
    decodeBuffer select (frameBytes f) = .ok (select f) := by
  rw [decodeBuffer, frameOfBytes_frameBytes]

theorem decode_p2dEncPort_of_noSuchTag {p : P2DPort} (h : p.kind ∈ ([0, 5, 9, 13, 14] : List (BitVec 4))) :
    decode (.p2dEncPort p) = .error (.noSuchTag p.kind) := by
  rw [decode, (p2dOfPort_eq_none_iff p).2 h]

/-- The calls that are not presentable: a buffer of another length than seven, and a tag without a constructor. -/
theorem presentable_eq_false_iff (c : Call) : presentable c = false ↔
    (∃ bytes : List Byte, bytes.length ≠ 7 ∧
      (c = .p2dDecBuffer bytes ∨ c = .d2pDecBuffer bytes ∨ c = .validateBuffer bytes)) ∨
    (∃ p : P2DPort, p.kind ∈ ([0, 5, 9, 13, 14] : List (BitVec 4)) ∧ c = .p2dEncPort p) := by
  cases c
  case p2dEncPort p =>
    rw [presentable, Bool.not_eq_false', decide_eq_true_iff]
    simp
  all_goals simp [presentable]

/-- A step is refused exactly when its call is not presentable, for any other call completes. -/
theorem step_refused_iff (c : Call) (cs : List Call) (r : List Output) :
    (∃ why, step { calls := c :: cs, results := r } = .refused why) ↔ presentable c = false := by
  cases hd : decode c with
  | error why =>
    have hp : ¬ presentable c = true := fun hp => by
      obtain ⟨i, hi⟩ := (exists_decode_eq_ok_iff c).2 hp
      rw [hd] at hi
      cases hi
    exact iff_of_true ⟨_, step_of_reject hd⟩ (Bool.eq_false_iff.2 hp)
  | ok i =>
    obtain ⟨out, -, hstep⟩ := exists_output_of_decode hd
    have hp : presentable c = true := (exists_decode_eq_ok_iff c).1 ⟨i, hd⟩
    simp [hstep cs r, hp]

/-- Settles O29: `decode` names the length or the tag it refuses, and no call but those that hold one is refused. -/
theorem onlyMalformedInputIsRefused : Obligations.OnlyMalformedInputIsRefused := by
  unfold Obligations.OnlyMalformedInputIsRefused
  rintro ⟨_, results⟩ cs
  refine ⟨fun bytes hlen => ⟨?_, ?_, ?_⟩, ?_, ?_, fun f => ⟨?_, ?_, ?_⟩⟩
  · rintro rfl
    exact step_of_reject (decodeBuffer_of_length_ne selectP2DDec hlen)
  · rintro rfl
    exact step_of_reject (decodeBuffer_of_length_ne selectD2PDec hlen)
  · rintro rfl
    exact step_of_reject (decodeBuffer_of_length_ne Instr.validate hlen)
  · rintro p hp rfl
    exact step_of_reject (decode_p2dEncPort_of_noSuchTag hp)
  · rintro c rfl
    exact (step_refused_iff c cs results).trans (presentable_eq_false_iff c)
  · exact answer_congr (decodeBuffer_frameBytes selectP2DDec f)
  · exact answer_congr (decodeBuffer_frameBytes selectD2PDec f)
  · exact answer_congr (decodeBuffer_frameBytes Instr.validate f)

/-! ## A run of steps -/

theorem core_run_succ_of_step {k : Nat} {s t : State} (h : step s = .next t) :
    Host.Core.run Sys2Proof.core (k + 1) s = Host.Core.run Sys2Proof.core k t := by
  have hcore : Sys2Proof.core.step s = .next t := h
  simp only [Host.Core.run, hcore]

/-- The run over all pending calls appends the answer that each call gets alone, in the order of the calls. -/
theorem core_run_calls (cs : List Call) (hcs : ∀ c ∈ cs, presentable c = true) (r : List Output) :
    ∃ outs, cs.map answer = outs.map some ∧
      Host.Core.run Sys2Proof.core cs.length { calls := cs, results := r } =
        .next { calls := [], results := r ++ outs } := by
  induction cs generalizing r with
  | nil => exact ⟨[], rfl, by rw [List.append_nil]; rfl⟩
  | cons c cs ih =>
    obtain ⟨hc, hcs⟩ := List.forall_mem_cons.1 hcs
    obtain ⟨i, hd⟩ := (exists_decode_eq_ok_iff c).2 hc
    obtain ⟨out, hanswer, hstep⟩ := exists_output_of_decode hd
    obtain ⟨outs, hanswers, hrun⟩ := ih hcs (r ++ [out])
    refine ⟨out :: outs, by simp [hanswer, hanswers], ?_⟩
    rw [List.length_cons, core_run_succ_of_step (hstep cs r), hrun, List.append_assoc, List.singleton_append]

/-- Settles O32: by induction on the pending calls, each of which appends the output it is answered alone. -/
theorem eachCallIsAnsweredAsIfAlone : Obligations.EachCallIsAnsweredAsIfAlone := by
  unfold Obligations.EachCallIsAnsweredAsIfAlone
  exact fun s hs => core_run_calls s.calls hs s.results

/-! ## The outputs that an instruction can deliver -/

theorem deliver_inj {out out' : Output} {s : State} : deliver out s = deliver out' s ↔ out = out' := by
  simp

/-- Every frame an instruction delivers has both markers: the frame builder and the `Unknown` rows write them. -/
theorem structurallyValid_of_exec {i : Instr} {g : Frame} {s : State} (he : exec i s = deliver (.frame g) s) :
    structurallyValid g := by
  cases i <;> cases deliver_inj.1 he <;> exact ⟨rfl, rfl⟩

/-- A height made of two bytes is on the grid of its offset (R125). -/
theorem onGrid_bytesToHeight (msb lsb : Byte) (off : Cm) : onGrid (bytesToHeight msb lsb (.cm off)) off :=
  ⟨millimetres msb lsb, millimetres_lt msb lsb, bytesToHeight_cm msb lsb off⟩

theorem p2dDecodable_of_exec {i : Instr} (hw : i.wellFormed = true) {m : P2DMsg} {s : State}
    (he : exec i s = deliver (.p2d m) s) : p2dDecodable m := by
  cases i <;> cases deliver_inj.1 he
  case p2dDecOne f | p2dDecTwo f | p2dDecThree f => exact onGrid_bytesToHeight f.pb f.pa 0
  case p2dDecUnknown f =>
    rw [Instr.wellFormed, Bool.not_eq_true', ← Bool.not_eq_true, p2dKnown_iff_mem] at hw
    exact hw
  all_goals trivial

theorem d2pDecodable_of_exec {i : Instr} (hw : i.wellFormed = true) {m : D2PMsg} {s : State}
    (he : exec i s = deliver (.d2p m) s) : d2pDecodable m := by
  cases i <;> cases deliver_inj.1 he
  case d2pDecHeight f => exact onGrid_bytesToHeight f.pa f.pb 65
  case d2pDecUnknown f =>
    rw [Instr.wellFormed, Bool.not_eq_true', d2pKnown_eq_false_iff] at hw
    exact hw

/-! ## Invariants of the outputs -/

/-- A property of outputs that every well-formed instruction's output has is kept by a step: if it holds of all outputs
so far, it holds of all outputs after it. -/
theorem step_keeps_forall_results {P : Output → Prop} {s t : State}
    (hP : ∀ (i : Instr) (out : Output), i.wellFormed = true → exec i s = deliver out s → P out)
    (hs : ∀ out ∈ s.results, P out) (h : step s = .next t) : ∀ out ∈ t.results, P out := by
  rcases step_eq_next_cases h with rfl | ⟨c, i, out, hd, hexec, -, hresults⟩
  · exact hs
  · rw [hresults, List.forall_mem_append, List.forall_mem_singleton]
    exact ⟨hs, hP i out (wellFormed_of_decode hd) (hexec s)⟩

/-- Settles O35: a step adds at most one output, and a frame among the outputs of instructions is structurally valid. -/
theorem stepKeepsFramesValid : Obligations.StepKeepsFramesValid := by
  unfold Obligations.StepKeepsFramesValid
  intro s t hs h g hg
  refine step_keeps_forall_results (P := fun out => ∀ g, out = .frame g → structurallyValid g) ?_ ?_ h _ hg g rfl
  · rintro i _ - he g rfl
    exact structurallyValid_of_exec he
  · rintro _ hout g rfl
    exact hs g hout

/-- Settles O36: a step adds at most one output, that of a well-formed row, whose frame carries grid heights and, in a
default row, an unrecognised command byte. -/
theorem stepKeepsMessagesDecodable : Obligations.StepKeepsMessagesDecodable := by
  unfold Obligations.StepKeepsMessagesDecodable
  rintro s t ⟨hp2d, hd2p⟩ h
  refine ⟨fun m hm => ?_, fun m hm => ?_⟩
  · refine step_keeps_forall_results (P := fun out => ∀ m, out = .p2d m → p2dDecodable m) ?_ ?_ h _ hm m rfl
    · rintro i _ hw he m rfl
      exact p2dDecodable_of_exec hw he
    · rintro _ hout m rfl
      exact hp2d m hout
  · refine step_keeps_forall_results (P := fun out => ∀ m, out = .d2p m → d2pDecodable m) ?_ ?_ h _ hm m rfl
    · rintro i _ hw he m rfl
      exact d2pDecodable_of_exec hw he
    · rintro _ hout m rfl
      exact hd2p m hout

/-- Settles O34: `State.reset` holds two empty lists. -/
theorem resetHoldsNothing : Obligations.ResetHoldsNothing := by
  unfold Obligations.ResetHoldsNothing
  exact ⟨reset_calls, reset_results⟩

/-- Settles O37: no output is held at reset, so none can break an invariant. -/
theorem resetIsSound : Obligations.ResetIsSound := by
  unfold Obligations.ResetIsSound framesSound messagesSound
  simp

/-! ## The validator on answered frames -/

/-- A call that is answered has selected a row, and that row delivers the answer in every state. -/
theorem exists_exec_of_answer {c : Call} {out : Output} (h : answer c = some out) :
    ∃ i, decode c = .ok i ∧ ∀ s, exec i s = deliver out s := by
  cases hd : decode c with
  | error why => simp [answer, step_of_reject hd] at h
  | ok i =>
    obtain ⟨out', hexec⟩ := exists_exec_eq_deliver i
    rw [answer_of_decode hd (hexec _), Option.some.injEq] at h
    exact ⟨i, rfl, h ▸ hexec⟩

/-- Settles O38: a frame that an instruction delivers has both markers, which is all that `VALIDATE` tests. -/
theorem encodedFramesValidate : Obligations.EncodedFramesValidate := by
  unfold Obligations.EncodedFramesValidate
  intro c g h
  obtain ⟨i, -, hexec⟩ := exists_exec_of_answer h
  rw [answer_validate, (markersMatch_iff g).2 (structurallyValid_of_exec (hexec State.reset))]

end Sys2Proof.Machine
end

section
/-! PROOF. The family of 41_height: the two bytes of every height, in and out of range, the trip of a height through its
bytes and back (section 4), and the encoders that place the two bytes in a frame (rules R145 to R147, R181). -/

namespace Sys2Proof.Machine

/-! ## The two bytes of a height -/

/-- Every height that is out of range, no number included, has the free bytes of rule R124. -/
theorem heightToBytes_of_outOfRange {h off : Height} (ho : outOfRange h off) :
    heightToBytes h off = Config.oorBytes h off := by
  match h, off, ho with
  | .cm q, .cm o, ho => exact heightToBytes_outOfRange ((not_heightInRange_iff q o).2 ho)
  | .cm q, .nonFinite n, _ => exact heightToBytes_nonFiniteOffset (.cm q) n
  | .nonFinite n, off, _ => exact heightToBytes_nonFinite n off

/-- In range the two bytes are the quotient and the remainder by 256 of the whole millimetres, as integers (R122). -/
theorem heightToBytes_eq_ofInt {h off : Cm} (hr : heightInRange h off) :
    heightToBytes (.cm h) (.cm off) =
      (BitVec.ofInt 8 (⌊netMm h off⌋ / 256), BitVec.ofInt 8 (⌊netMm h off⌋ % 256)) := by
  obtain ⟨n, -, hn⟩ := exists_floor_netMm hr
  rw [heightToBytes_inRange hr hn, hn, ← BitVec.ofInt_natCast, ← BitVec.ofInt_natCast, Int.natCast_div,
    Int.natCast_emod, Nat.cast_ofNat]

/-- `bytesOfHeight` describes the two bytes of `H2B` for every height. -/
theorem heightToBytes_of_bytesOfHeight {h : Height} {off : Cm} {msb lsb : Byte} (hb : bytesOfHeight h off msb lsb) :
    heightToBytes h (.cm off) = (msb, lsb) := by
  cases h with
  | nonFinite n => exact (heightToBytes_nonFinite n (.cm off)).trans hb.symm
  | cm q =>
    rw [bytesOfHeight] at hb
    split_ifs at hb with hr
    · obtain ⟨rfl, rfl⟩ := hb
      exact heightToBytes_eq_ofInt hr
    · exact (heightToBytes_outOfRange hr).trans hb.symm

/-! ## Encoders: the two bytes in a frame -/

/-- Settles O2: each preset is `BUILD` of its command byte and the two bytes of `H2B(h, 0)`, low byte first. -/
theorem p2dEncodePresetFrames : Obligations.P2dEncodePresetFrames := by
  unfold Obligations.P2dEncodePresetFrames
  intro s h msb lsb hb
  have hbytes := heightToBytes_of_bytesOfHeight hb
  rw [exec_p2dEncOne_eq_build, exec_p2dEncTwo_eq_build, exec_p2dEncThree_eq_build, hbytes]
  exact ⟨exec_build_eq_next rfl lsb msb s, exec_build_eq_next rfl lsb msb s, exec_build_eq_next rfl lsb msb s⟩

/-- Settles O7: `Height` is `BUILD` of command 0 and the two bytes of `H2B(h, 65)`, high byte first. -/
theorem d2pEncodeHeightFrame : Obligations.D2pEncodeHeightFrame := by
  unfold Obligations.D2pEncodeHeightFrame
  intro s h msb lsb hb
  rw [exec_d2pEncHeight_eq_build, heightToBytes_of_bytesOfHeight hb]
  exact exec_build_eq_next rfl msb lsb s

/-- `BUILD` completes with some checksum byte over its three bytes and the sum `k` of address and command. -/
theorem exists_ck_exec_build {cmd : Byte} {k : Nat} (hk : (1 : Byte).toNat + cmd.toNat = k) (pa pb : Byte)
    (s : State) : ∃ ck : Byte, ck.toNat = (k + pa.toNat + pb.toNat) % 256 ∧
      exec (.build cmd pa pb) s =
        .next { calls := s.calls, results := s.results ++ [.frame ⟨104, 1, cmd, pa, pb, ck, 22⟩] } := by
  subst hk
  exact ⟨checksum 1 cmd pa pb, checksum_toNat 1 cmd pa pb, deliver_eq (.frame (buildFrame cmd pa pb)) s⟩

/-- Settles O12: out of range the bytes of `H2B` are the free ones, and the encoders are `BUILD` of them. -/
theorem heightToBytesOutOfRange : Obligations.HeightToBytesOutOfRange := by
  unfold Obligations.HeightToBytesOutOfRange
  intro s h off msb lsb ho hfree
  have hbytes : heightToBytes h off = (msb, lsb) := (heightToBytes_of_outOfRange ho).trans hfree.symm
  refine ⟨?_, ?_, ?_⟩
  · rw [exec_h2b_eq_deliver, deliver_eq, hbytes]
  · rintro rfl
    rw [exec_p2dEncOne_eq_build, hbytes]
    exact exists_ck_exec_build (cmd := 6) rfl lsb msb s
  · rintro rfl
    rw [exec_d2pEncHeight_eq_build, hbytes]
    exact exists_ck_exec_build (cmd := 0) rfl msb lsb s

/-! ## From bytes to a height and back -/

/-- The whole millimetres of a height made of a millimetre count are that count. -/
theorem netMm_div_add (n off : Cm) : netMm (n / 10 + off) off = n := by
  rw [netMm_eq]
  ring

/-- Two bytes survive the trip through a height at every offset (R126). -/
theorem heightToBytes_bytesToHeight (msb lsb : Byte) (off : Cm) :
    heightToBytes (bytesToHeight msb lsb (.cm off)) (.cm off) = (msb, lsb) := by
  have hnet := netMm_div_add (millimetres msb lsb) off
  have hr : heightInRange ((millimetres msb lsb : Cm) / 10 + off) off := by
    rw [heightInRange, hnet]
    exact ⟨Nat.cast_nonneg _, mod_cast millimetres_lt msb lsb⟩
  obtain ⟨hmsb, hlsb⟩ := bytes_of_millimetres msb lsb
  rw [bytesToHeight_cm, heightToBytes_inRange hr (by rw [hnet, Int.floor_natCast]), hmsb, hlsb]

/-- The height that `B2H` makes of the bytes of `H2B`. -/
def heightTrip (h : Height) (off : Cm) : Height :=
  bytesToHeight (heightToBytes h (.cm off)).1 (heightToBytes h (.cm off)).2 (.cm off)

/-- In range the trip drops the fraction of a millimetre (R126). -/
theorem heightTrip_inRange {h off : Cm} (hr : heightInRange h off) :
    heightTrip (.cm h) off = .cm (off + (⌊netMm h off⌋ : Cm) / 10) := by
  have hsum := heightToBytes_sum hr
  rw [heightTrip, bytesToHeight_cm, millimetres_cast, ← hsum, add_comm off]
  push_cast
  rfl

/-- `heightAfterTrip` describes the trip of every height, the out-of-range ones included. -/
theorem heightTrip_of_heightAfterTrip {h : Height} {off k : Cm} (ht : heightAfterTrip h off k) :
    heightTrip h off = .cm k := by
  cases h with
  | nonFinite n => rw [heightTrip, heightToBytes_nonFinite, bytesToHeight_cm, millimetres_cast, ht]
  | cm q =>
    rw [heightAfterTrip] at ht
    split_ifs at ht with hr
    · rw [ht, heightTrip_inRange hr, netMm_eq]
    · rw [heightTrip, heightToBytes_outOfRange hr, bytesToHeight_cm, millimetres_cast, ht]

/-- A height on the grid survives the trip: it is the height of the two bytes of its millimetre count. -/
theorem heightTrip_of_onGrid {h : Height} {off : Cm} (hg : onGrid h off) : heightTrip h off = h := by
  obtain ⟨n, hlt, rfl⟩ := hg
  have hbytes : Height.cm ((n : Cm) / 10 + off) =
      bytesToHeight (BitVec.ofNat 8 (n / 256)) (BitVec.ofNat 8 (n % 256)) (.cm off) := by
    rw [bytesToHeight_cm, millimetres_of_bytes hlt]
  rw [hbytes, heightTrip, heightToBytes_bytesToHeight]

theorem answer_h2b (h off : Height) :
    answer (.h2b h off) = some (.bytePair (heightToBytes h off).1 (heightToBytes h off).2) :=
  answer_of_decode rfl (exec_h2b_eq_deliver h off _)

theorem answer_b2h (msb lsb : Byte) (off : Height) :
    answer (.b2h msb lsb off) = some (.height (bytesToHeight msb lsb off)) :=
  answer_of_decode rfl (exec_b2h_eq_deliver msb lsb off _)

/-- The next lower tenth of a centimetre above the offset is the height itself exactly when that is a whole number of
millimetres above it. -/
theorem add_floor_netMm_div_eq_iff (h off : Cm) :
    off + (⌊netMm h off⌋ : Cm) / 10 = h ↔ ∃ n : Int, netMm h off = (n : Cm) := by
  have hh : h = off + netMm h off / 10 := by
    rw [netMm_eq]
    ring
  constructor
  · intro hk
    refine ⟨⌊netMm h off⌋, ?_⟩
    linarith
  · rintro ⟨n, hn⟩
    rw [hn, Int.floor_intCast, ← hn]
    exact hh.symm

/-- Settles O41: bytes come back from a height, and a height comes back from its bytes without its fraction. -/
theorem heightRoundTrip : Obligations.HeightRoundTrip := by
  unfold Obligations.HeightRoundTrip
  refine ⟨fun msb lsb off => ⟨_, answer_b2h msb lsb (.cm off), ?_⟩, fun h off hlow hhigh => ?_⟩
  · rw [answer_h2b]
    exact congrArg (fun p => some (Output.bytePair p.1 p.2)) (heightToBytes_bytesToHeight msb lsb off)
  · have hr : heightInRange h off := ⟨hlow, hhigh⟩
    refine ⟨_, _, _, answer_h2b _ _, (answer_b2h _ _ _).trans ?_, rfl, add_floor_netMm_div_eq_iff h off⟩
    exact congrArg (some ∘ Output.height) (heightTrip_inRange hr)

/-- Settles O42: the 16-bit count of a height is the floor of its millimetres, and the floor is monotonic. -/
theorem heightEncodingIsMonotonic : Obligations.HeightEncodingIsMonotonic := by
  unfold Obligations.HeightEncodingIsMonotonic
  intro h₁ h₂ off hlow hle hhigh
  have hmono : netMm h₁ off ≤ netMm h₂ off := by
    rw [netMm_eq, netMm_eq]
    linarith
  have hsum₁ := heightToBytes_sum (h := h₁) (off := off) ⟨hlow, hmono.trans_lt hhigh⟩
  have hsum₂ := heightToBytes_sum (h := h₂) (off := off) ⟨hlow.trans hmono, hhigh⟩
  have hfloor := Int.floor_le_floor hmono
  refine ⟨_, _, _, _, answer_h2b _ _, answer_h2b _ _, ?_⟩
  omega

/-! ## Fixed heights, and heights as words of the open format -/

/-- Settles O43: 1000 mm are the bytes 3, 232; 350 mm above 65 cm are the bytes 1, 94. -/
theorem directionsEncodeOneHeightDifferently : Obligations.DirectionsEncodeOneHeightDifferently := by
  unfold Obligations.DirectionsEncodeOneHeightDifferently
  decide +kernel

/-- Settles O53: 103 mm and 22 mm above 65 cm go out as `[104, 1, 0, 0, 103, 104, 22]` and `[104, 1, 0, 0, 22, 23, 22]`;
the checksum of the first is the start marker, and the high byte of the second stands before a low byte of 22. -/
theorem misalignedWindowCanValidate : Obligations.MisalignedWindowCanValidate := by
  unfold Obligations.MisalignedWindowCanValidate
  exact ⟨⟨104, 1, 0, 0, 103, 104, 22⟩, ⟨104, 1, 0, 0, 22, 23, 22⟩, by decide +kernel⟩

section
variable {h : Height} {msb lsb : Byte}

/-- The presets are answered as `BUILD` of their command byte and the bytes of `H2B(h, 0)`, low byte first. -/
theorem answer_p2dEnc_preset_eq_build (hb : heightToBytes h (.cm 0) = (msb, lsb)) :
    answer (.p2dEnc (.one h)) = answer (.build 6 lsb msb) ∧ answer (.p2dEnc (.two h)) = answer (.build 7 lsb msb) ∧
    answer (.p2dEnc (.three h)) = answer (.build 8 lsb msb) := by
  obtain ⟨rfl, rfl⟩ := Prod.mk.inj hb
  exact ⟨rfl, rfl, rfl⟩

theorem answer_d2pEnc_height_eq_build (hb : heightToBytes h (.cm 65) = (msb, lsb)) :
    answer (.d2pEnc (.height h)) = answer (.build 0 msb lsb) := by
  obtain ⟨rfl, rfl⟩ := Prod.mk.inj hb
  rfl

end

/-- Settles O56: a call with words selects the row of the heights they stand for, and the bytes of a height that is no
number are the free ones. -/
theorem heightWordsStandForTheirHeights : Obligations.HeightWordsStandForTheirHeights := by
  unfold Obligations.HeightWordsStandForTheirHeights
  refine ⟨fun _ _ => answer_congr rfl, fun _ _ _ => answer_congr rfl,
    fun _ _ => ⟨answer_congr rfl, answer_congr rfl, answer_congr rfl, answer_congr rfl⟩, fun n msb lsb hfree => ?_,
    fun n msb lsb hfree => ?_, fun s msb lsb n => deliver_eq _ s⟩
  · have hb := (heightToBytes_nonFinite n (.cm 0)).trans hfree.symm
    exact ⟨by rw [answer_h2b, hb], answer_p2dEnc_preset_eq_build hb⟩
  · exact answer_d2pEnc_height_eq_build ((heightToBytes_nonFinite n (.cm 65)).trans hfree.symm)

end Sys2Proof.Machine
end

section
/-! PROOF. The families of 20_memory and 30_encoding, frames and words: the bytes of the number `F` (20_memory section
2), the bytes a decode reads (rule R50), and the words of the opcode table. -/

namespace Sys2Proof.Machine

/-! ## The seven bytes of the number `F` -/

theorem toNat_append_eq_add {m n : Nat} (x : BitVec m) (y : BitVec n) :
    (x ++ y).toNat = x.toNat * 2 ^ n + y.toNat := by
  rw [BitVec.toNat_append, ← Nat.shiftLeft_add_eq_or_of_lt y.isLt, Nat.shiftLeft_eq]

/-- `F` is the number whose base-256 digits are the seven bytes, `f[0]` on top (00_scope 7.2). -/
theorem frameBits_toNat (f : Frame) : (frameBits f).toNat =
    f.start.toNat * 2 ^ 48 + f.addr.toNat * 2 ^ 40 + f.cmd.toNat * 2 ^ 32 + f.pa.toNat * 2 ^ 24 +
      f.pb.toNat * 2 ^ 16 + f.ck.toNat * 2 ^ 8 + f.endMark.toNat := by
  simp only [frameBits_eq_append, toNat_append_eq_add]
  omega

/-- Reading `F` back gives the frame: each byte is one base-256 digit of `F`. -/
theorem frameOfBits_frameBits (f : Frame) : frameOfBits (frameBits f) = f := by
  obtain ⟨b0, b1, b2, b3, b4, b5, b6⟩ := f
  have hF := frameBits_toNat ⟨b0, b1, b2, b3, b4, b5, b6⟩
  have h1 := b1.isLt
  have h2 := b2.isLt
  have h3 := b3.isLt
  have h4 := b4.isLt
  have h5 := b5.isLt
  have h6 := b6.isLt
  simp only [frameOfBits, Frame.mk.injEq, ← BitVec.toNat_inj, BitVec.extractLsb'_toNat, Nat.shiftRight_eq_div_pow, hF]
  omega

/-- The byte at index `i` of the frame whose number is `w` is `w[55-8i : 48-8i]`. -/
theorem frameByte_frameOfBits (w : BitVec 56) {i : Nat} (hi : i < 7) :
    frameByte (frameOfBits w) i = some (w.extractLsb' (48 - 8 * i) 8) := by
  interval_cases i <;> rfl

/-- Settles O19: a frame is the one read back from `F`, so its bytes are those slices, and index order is that of the
byte sequence. -/
theorem frameIndexSpaceIsSevenBytes : Obligations.FrameIndexSpaceIsSevenBytes := by
  unfold Obligations.FrameIndexSpaceIsSevenBytes
  intro f i
  refine ⟨fun hi => ⟨?_, (frameByte_eq_getElem? f i).symm⟩, fun hi => ?_, frameOfBits_frameBits f⟩
  · rw [← frameByte_frameOfBits _ hi, frameOfBits_frameBits]
  · rw [frameByte_eq_getElem?, List.getElem?_eq_none_iff, frameBytes_length]
    exact hi

/-! ## What a decode reads -/

/-- The Panel→Desk table has seven commands without payload and three presets (R63). -/
theorem p2dKnown_iff_noPayload_or_preset (c : Byte) : p2dKnown c = true ↔
    c ∈ ([1, 2, 3, 4, 10, 11, 12] : List Byte) ∨ c ∈ ([6, 7, 8] : List Byte) := by
  simp only [p2dKnown_iff, List.mem_cons, List.not_mem_nil, or_false, BitVec.ofNat_eq_ofNat]
  tauto

theorem not_preset_of_noPayload :
    ∀ c ∈ ([1, 2, 3, 4, 10, 11, 12] : List Byte), c ∉ ([6, 7, 8] : List Byte) := by decide

section
variable {f g : Frame}

/-- A no-payload decode reads the command byte alone (R50, D10). -/
theorem answer_p2dDec_congr_noPayload (hcmd : f.cmd = g.cmd)
    (hnp : f.cmd ∈ ([1, 2, 3, 4, 10, 11, 12] : List Byte)) : answer (.p2dDec f) = answer (.p2dDec g) := by
  simp only [List.mem_cons, List.not_mem_nil, or_false] at hnp
  rcases hnp with h | h | h | h | h | h | h
  · rw [answer_p2dDec_up h, answer_p2dDec_up (hcmd.symm.trans h)]
  · rw [answer_p2dDec_down h, answer_p2dDec_down (hcmd.symm.trans h)]
  · rw [answer_p2dDec_noKey h, answer_p2dDec_noKey (hcmd.symm.trans h)]
  · rw [answer_p2dDec_deskReset h, answer_p2dDec_deskReset (hcmd.symm.trans h)]
  · rw [answer_p2dDec_resetOne h, answer_p2dDec_resetOne (hcmd.symm.trans h)]
  · rw [answer_p2dDec_resetTwo h, answer_p2dDec_resetTwo (hcmd.symm.trans h)]
  · rw [answer_p2dDec_resetThree h, answer_p2dDec_resetThree (hcmd.symm.trans h)]

/-- No Panel→Desk decode reads the markers (R50, D9). -/
theorem answer_p2dDec_congr (haddr : f.addr = g.addr) (hcmd : f.cmd = g.cmd) (hpa : f.pa = g.pa) (hpb : f.pb = g.pb)
    (hck : f.ck = g.ck) : answer (.p2dDec f) = answer (.p2dDec g) := by
  cases hk : p2dKnown f.cmd with
  | true => exact (answer_p2dDec_congr_known hk hcmd.symm hpa.symm hpb.symm).symm
  | false => rw [answer_p2dDec_unknown hk, answer_p2dDec_unknown (hcmd ▸ hk), haddr, hcmd, hpa, hpb, hck]

/-- No Desk→Panel decode reads the markers (R50, D9). -/
theorem answer_d2pDec_congr (haddr : f.addr = g.addr) (hcmd : f.cmd = g.cmd) (hpa : f.pa = g.pa) (hpb : f.pb = g.pb)
    (hck : f.ck = g.ck) : answer (.d2pDec f) = answer (.d2pDec g) := by
  by_cases h : f.cmd = 0#8
  · exact (answer_d2pDec_congr_height h hcmd.symm hpa.symm hpb.symm).symm
  · rw [answer_d2pDec_unknown h, answer_d2pDec_unknown (hcmd ▸ h), haddr, hcmd, hpa, hpb, hck]

end

/-- Settles O17: a known row reads the command byte and, for a height, the payload; a default row copies bytes 1 to 5;
`VALIDATE` tests the markers. -/
theorem unreadFrameBytesHaveNoInfluence : Obligations.UnreadFrameBytesHaveNoInfluence := by
  unfold Obligations.UnreadFrameBytesHaveNoInfluence
  intro f g
  refine ⟨answer_p2dDec_congr_noPayload, fun hcmd hpa hpb hpreset => ?_, fun hcmd hpa hpb h => ?_,
    fun haddr hcmd hpa hpb hck =>
      ⟨answer_p2dDec_congr haddr hcmd hpa hpb hck, answer_d2pDec_congr haddr hcmd hpa hpb hck⟩,
    fun hstart hend => ?_⟩
  · have hk := (p2dKnown_iff_noPayload_or_preset f.cmd).2 (.inr hpreset)
    exact (answer_p2dDec_congr_known hk hcmd.symm hpa.symm hpb.symm).symm
  · exact (answer_d2pDec_congr_height h hcmd.symm hpa.symm hpb.symm).symm
  · rw [answer_validate, answer_validate, markersMatch, markersMatch, hstart, hend]

/-! ## Table words -/

/-- Settles O20: eight words of the table, read by evaluation. -/
theorem tableWordsDecode : Obligations.TableWordsDecode := by
  unfold Obligations.TableWordsDecode
  decide +kernel

section
variable {u : UnitId} {fixed : Frame → Bool} {select : Frame → Instr}

theorem decodeOutputWord_frameBytes {f : Frame} (hf : fixed f = true) :
    decodeOutputWord u fixed select (frameBytes f) = .ok (select f) := by
  rw [decodeOutputWord, frameOfBytes_frameBytes]
  exact if_pos hf

/-- A word that is accepted as an output reads as a well-formed row if every frame does. -/
theorem wellFormed_of_decodeOutputWord (hselect : ∀ f, (select f).wellFormed = true) {bytes : List Byte} {i : Instr}
    (hd : decodeOutputWord u fixed select bytes = .ok i) : i.wellFormed = true := by
  rw [decodeOutputWord] at hd
  cases hf : frameOfBytes bytes with
  | none => simp [hf] at hd
  | some f =>
    simp only [hf] at hd
    split_ifs at hd with hfixed
    rw [Except.ok.injEq] at hd
    exact hd ▸ hselect f

end

theorem wellFormed_ite {p : Prop} [Decidable p] {i j : Instr} (hi : i.wellFormed = true) (hj : j.wellFormed = true) :
    (if p then i else j).wellFormed = true := by
  split
  · exact hi
  · exact hj

theorem wellFormed_selectP2DEncWord (f : Frame) : (selectP2DEncWord f).wellFormed = true := by
  unfold selectP2DEncWord
  iterate 10 refine wellFormed_ite rfl ?_
  rfl

theorem wellFormed_selectD2PEncWord (f : Frame) : (selectD2PEncWord f).wellFormed = true :=
  wellFormed_ite rfl rfl

/-- Every word that is read, is read as a well-formed row. -/
theorem wellFormed_of_decodeWord {u : UnitId} {bytes : List Byte} {i : Instr} (hd : decodeWord u bytes = .ok i) :
    i.wellFormed = true := by
  cases u
  case p2dEnc => exact wellFormed_of_decodeOutputWord wellFormed_selectP2DEncWord hd
  case d2pEnc => exact wellFormed_of_decodeOutputWord wellFormed_selectD2PEncWord hd
  case build => exact wellFormed_of_decodeOutputWord (fun _ => rfl) hd
  case p2dDec => exact wellFormed_of_decodeBuffer wellFormed_selectP2DDec hd
  case d2pDec => exact wellFormed_of_decodeBuffer wellFormed_selectD2PDec hd
  case validate => exact wellFormed_of_decodeBuffer (fun _ => rfl) hd
  all_goals
    simp only [decodeWord] at hd
    split at hd <;> cases hd
    rfl

theorem wellFormed_of_decodeTableWord {nbits w : Nat} {i : Instr} (hd : decodeTableWord nbits w = some i) :
    i.wellFormed = true := by
  rw [decodeTableWord] at hd
  cases hu : tableUnit nbits (wordBytes (nbits / 8) w) with
  | none => simp [hu] at hd
  | some u =>
    cases hw : decodeWord u (wordBytes (nbits / 8) w) with
    | error why => simp [hu, hw] at hd
    | ok j =>
      simp only [hu, hw, Option.some.injEq] at hd
      exact hd ▸ wellFormed_of_decodeWord hw

theorem withFetchWord_of_decodeTableWord {nbits w : Nat} {i : Instr} (hd : decodeTableWord nbits w = some i)
    (s : State) : s.withFetchWord nbits w = present (encode i) s := by
  rw [State.withFetchWord, hd]

/-- Settles O28: the instruction of a word is well formed, so the call placed for it selects it again. -/
theorem placedTableWordRunsNext : Obligations.PlacedTableWordRunsNext := by
  unfold Obligations.PlacedTableWordRunsNext
  intro s nbits w i hd
  rw [withFetchWord_of_decodeTableWord hd]
  exact step_of_decode (decode_encode (wellFormed_of_decodeTableWord hd))

/-! ## The words of the encoders' rows -/

/-- The raw frame of an `Unknown` is a no-payload frame only with that frame's five bytes. -/
theorem rawFrame_eq_npFrame_iff (a b c d e : Byte) {cmd : Byte} (hcmd : cmd.toNat < 255) :
    rawFrame a b c d e = npFrame cmd ↔ a = 1 ∧ b = cmd ∧ c = 0 ∧ d = 0 ∧ e.toNat = 1 + cmd.toNat := by
  have hck : (checksum 1 cmd 0 0).toNat = 1 + cmd.toNat := by
    rw [checksum_toNat]
    change (1 + cmd.toNat + 0 + 0) % 256 = _
    omega
  rw [npFrame, buildFrame_eq, rawFrame, Frame.mk.injEq, ← hck, BitVec.toNat_inj]
  simp

/-- A frame that is the word of no no-payload row reads by its address and command byte. -/
theorem selectP2DEncWord_of_ne_npFrame {f : Frame}
    (hne : ∀ cmd ∈ ([1, 2, 3, 4, 10, 11, 12] : List Byte), f ≠ npFrame cmd) :
    selectP2DEncWord f =
      if f.addr = 1 ∧ f.cmd = 6 then .p2dEncOne (p2dHeight f)
      else if f.addr = 1 ∧ f.cmd = 7 then .p2dEncTwo (p2dHeight f)
      else if f.addr = 1 ∧ f.cmd = 8 then .p2dEncThree (p2dHeight f)
      else .p2dEncUnknown f.addr f.cmd f.pa f.pb f.ck := by
  simp only [List.forall_mem_cons] at hne
  obtain ⟨hup, hdown, hnoKey, hdeskReset, hresetOne, hresetTwo, hresetThree, -⟩ := hne
  exact (if_neg hup).trans <| (if_neg hdown).trans <| (if_neg hnoKey).trans <| (if_neg hdeskReset).trans <|
    (if_neg hresetOne).trans <| (if_neg hresetTwo).trans <| if_neg hresetThree

/-- A frame that no other row of `P2D_ENC` has as its word is the word of `Unknown`. -/
theorem selectP2DEncWord_rawFrame {a b c d e : Byte} (hd : wordDetermined (.p2dEncUnknown a b c d e)) :
    selectP2DEncWord (rawFrame a b c d e) = .p2dEncUnknown a b c d e := by
  obtain ⟨hpreset, hnp⟩ := hd
  have hlt : ∀ cmd ∈ ([1, 2, 3, 4, 10, 11, 12] : List Byte), cmd.toNat < 255 := by decide
  have hne : ∀ cmd ∈ ([1, 2, 3, 4, 10, 11, 12] : List Byte), rawFrame a b c d e ≠ npFrame cmd := by
    intro cmd hcmd heq
    obtain ⟨ha, rfl, hc, hd, he⟩ := (rawFrame_eq_npFrame_iff a b c d e (hlt cmd hcmd)).1 heq
    exact hnp ⟨ha, hcmd, hc, hd, he⟩
  have haddr : ∀ cmd ∈ ([6, 7, 8] : List Byte), ¬ (a = 1 ∧ b = cmd) := by
    rintro _ hcmd ⟨ha, rfl⟩
    exact hpreset ⟨ha, hcmd⟩
  rw [selectP2DEncWord_of_ne_npFrame hne]
  exact (if_neg (haddr 6 (by decide))).trans <| (if_neg (haddr 7 (by decide))).trans <| if_neg (haddr 8 (by decide))

theorem selectD2PEncWord_rawFrame {a b c d e : Byte} (hd : wordDetermined (.d2pEncUnknown a b c d e)) :
    selectD2PEncWord (rawFrame a b c d e) = .d2pEncUnknown a b c d e :=
  if_neg hd

section
variable (cmd : Byte) (h : Height)

@[simp] theorem hlFrame_addr : (hlFrame cmd h).addr = 1 := rfl

@[simp] theorem hlFrame_cmd : (hlFrame cmd h).cmd = cmd := rfl

/-- The height that a preset's frame carries is the height encoded, after its trip through the two bytes. -/
@[simp] theorem p2dHeight_hlFrame : p2dHeight (hlFrame cmd h) = heightTrip h 0 := rfl

end

/-- The frame of a preset is no no-payload frame, for its command byte is another one. -/
theorem hlFrame_ne_npFrame {cmd : Byte} (hcmd : cmd ∈ ([6, 7, 8] : List Byte)) (h : Height) :
    ∀ cmd' ∈ ([1, 2, 3, 4, 10, 11, 12] : List Byte), hlFrame cmd h ≠ npFrame cmd' := by
  intro cmd' hcmd' heq
  obtain rfl : cmd = cmd' := congrArg Frame.cmd heq
  exact not_preset_of_noPayload cmd hcmd' hcmd

/-- The frame of a preset reads as that preset, with the height its bytes carry. -/
theorem selectP2DEncWord_hlFrame (h : Height) :
    selectP2DEncWord (hlFrame 6 h) = .p2dEncOne (heightTrip h 0) ∧
    selectP2DEncWord (hlFrame 7 h) = .p2dEncTwo (heightTrip h 0) ∧
    selectP2DEncWord (hlFrame 8 h) = .p2dEncThree (heightTrip h 0) := by
  rw [selectP2DEncWord_of_ne_npFrame (hlFrame_ne_npFrame (by decide) h),
    selectP2DEncWord_of_ne_npFrame (hlFrame_ne_npFrame (by decide) h),
    selectP2DEncWord_of_ne_npFrame (hlFrame_ne_npFrame (by decide) h)]
  simp

theorem selectD2PEncWord_hbFrame (h : Height) : selectD2PEncWord (hbFrame h) = .d2pEncHeight (heightTrip h 65) :=
  if_pos ⟨rfl, rfl⟩

/-- Settles O25: decode rows and byte units have their operands as their word; the frame of an encode row is read back
by the bits the table fixes, and its height survives because it is on the grid. -/
theorem tableWordRoundTrip : Obligations.TableWordRoundTrip := by
  unfold Obligations.TableWordRoundTrip
  intro i hw hd
  have hp2dEnc : ∀ f, markersMatch f = true → decodeWord .p2dEnc (frameBytes f) = .ok (selectP2DEncWord f) :=
    fun _ hf => decodeOutputWord_frameBytes hf
  have hd2pEnc : ∀ f, markersMatch f = true → decodeWord .d2pEnc (frameBytes f) = .ok (selectD2PEncWord f) :=
    fun _ hf => decodeOutputWord_frameBytes hf
  cases i
  case p2dEncOne h =>
    obtain ⟨hsel, -, -⟩ := selectP2DEncWord_hlFrame h
    refine (hp2dEnc (hlFrame 6 h) rfl).trans ?_
    rw [hsel, heightTrip_of_onGrid hd]
  case p2dEncTwo h =>
    obtain ⟨-, hsel, -⟩ := selectP2DEncWord_hlFrame h
    refine (hp2dEnc (hlFrame 7 h) rfl).trans ?_
    rw [hsel, heightTrip_of_onGrid hd]
  case p2dEncThree h =>
    obtain ⟨-, -, hsel⟩ := selectP2DEncWord_hlFrame h
    refine (hp2dEnc (hlFrame 8 h) rfl).trans ?_
    rw [hsel, heightTrip_of_onGrid hd]
  case p2dEncUnknown a b c d e =>
    exact (hp2dEnc (rawFrame a b c d e) rfl).trans (congrArg Except.ok (selectP2DEncWord_rawFrame hd))
  case d2pEncHeight h =>
    refine (hd2pEnc (hbFrame h) rfl).trans ?_
    rw [selectD2PEncWord_hbFrame, heightTrip_of_onGrid hd]
  case d2pEncUnknown a b c d e =>
    exact (hd2pEnc (rawFrame a b c d e) rfl).trans (congrArg Except.ok (selectD2PEncWord_rawFrame hd))
  case h2b h off =>
    obtain ⟨hgrid, rfl⟩ := hd
    exact congrArg (fun k => Except.ok (Instr.h2b k (.cm 0))) (heightTrip_of_onGrid hgrid)
  case b2h msb lsb off => exact congrArg (fun o => Except.ok (Instr.b2h msb lsb o)) (Eq.symm hd)
  case p2dDecUp f | p2dDecDown f | p2dDecNoKey f | p2dDecDeskReset f | p2dDecOne f | p2dDecTwo f | p2dDecThree f |
      p2dDecResetOne f | p2dDecResetTwo f | p2dDecResetThree f | p2dDecUnknown f | d2pDecHeight f | d2pDecUnknown f =>
    exact decode_encode hw
  all_goals rfl

end Sys2Proof.Machine
end

section
/-! PROOF. The families of 42_panel_to_desk and 43_desk_to_panel, round trips (section 3 of each), and of 30_encoding,
canonical frames (section 4). -/

namespace Sys2Proof.Machine

/-- An answered Panel→Desk message is the one message the call is known to answer. -/
theorem p2dMsg_eq_of_answer {c : Call} {m m' : P2DMsg} (h : answer c = some (.p2d m))
    (h' : answer c = some (.p2d m')) : m = m' := by
  simpa [h] using h'

theorem d2pMsg_eq_of_answer {c : Call} {m m' : D2PMsg} (h : answer c = some (.d2p m))
    (h' : answer c = some (.d2p m')) : m = m' := by
  simpa [h] using h'

/-! ## From a message to a frame and back -/

section
variable (h : Height)

theorem answer_p2dEnc_one : answer (.p2dEnc (.one h)) = some (.frame (hlFrame 6 h)) := rfl

theorem answer_p2dEnc_two : answer (.p2dEnc (.two h)) = some (.frame (hlFrame 7 h)) := rfl

theorem answer_p2dEnc_three : answer (.p2dEnc (.three h)) = some (.frame (hlFrame 8 h)) := rfl

/-- The frame of a preset decodes to that preset, with the height after its trip through the two bytes. -/
theorem answer_p2dDec_hlFrame :
    answer (.p2dDec (hlFrame 6 h)) = some (.p2d (.one (heightTrip h 0))) ∧
    answer (.p2dDec (hlFrame 7 h)) = some (.p2d (.two (heightTrip h 0))) ∧
    answer (.p2dDec (hlFrame 8 h)) = some (.p2d (.three (heightTrip h 0))) :=
  ⟨answer_p2dDec_one rfl, answer_p2dDec_two rfl, answer_p2dDec_three rfl⟩

theorem answer_d2pDec_hbFrame : answer (.d2pDec (hbFrame h)) = some (.d2p (.height (heightTrip h 65))) :=
  answer_d2pDec_height rfl

end

/-- A no-payload message and a preset on the grid come back from their frame. -/
theorem exists_frame_of_p2dExact {m : P2DMsg} (hm : p2dExact m) :
    ∃ g, answer (.p2dEnc m) = some (.frame g) ∧ answer (.p2dDec g) = some (.p2d m) := by
  cases m with
  | up => exact ⟨_, rfl, answer_p2dDec_up rfl⟩
  | down => exact ⟨_, rfl, answer_p2dDec_down rfl⟩
  | noKey => exact ⟨_, rfl, answer_p2dDec_noKey rfl⟩
  | deskReset => exact ⟨_, rfl, answer_p2dDec_deskReset rfl⟩
  | resetOne => exact ⟨_, rfl, answer_p2dDec_resetOne rfl⟩
  | resetTwo => exact ⟨_, rfl, answer_p2dDec_resetTwo rfl⟩
  | resetThree => exact ⟨_, rfl, answer_p2dDec_resetThree rfl⟩
  | one h =>
    obtain ⟨hone, -, -⟩ := answer_p2dDec_hlFrame h
    exact ⟨_, answer_p2dEnc_one h, by rw [hone, heightTrip_of_onGrid hm]⟩
  | two h =>
    obtain ⟨-, htwo, -⟩ := answer_p2dDec_hlFrame h
    exact ⟨_, answer_p2dEnc_two h, by rw [htwo, heightTrip_of_onGrid hm]⟩
  | three h =>
    obtain ⟨-, -, hthree⟩ := answer_p2dDec_hlFrame h
    exact ⟨_, answer_p2dEnc_three h, by rw [hthree, heightTrip_of_onGrid hm]⟩
  | unknown => exact hm.elim

/-- Settles O44: a decode reads back the command byte of the encode, and the height after its trip through two bytes. -/
theorem p2dMessageRoundTrip : Obligations.P2dMessageRoundTrip := by
  unfold Obligations.P2dMessageRoundTrip
  refine ⟨fun m hm => exists_frame_of_p2dExact hm, fun h k hk => ?_⟩
  obtain ⟨hone, htwo, hthree⟩ := answer_p2dDec_hlFrame h
  rw [heightTrip_of_heightAfterTrip hk] at hone htwo hthree
  exact ⟨_, _, _, answer_p2dEnc_one h, hone, answer_p2dEnc_two h, htwo, answer_p2dEnc_three h, hthree⟩

/-- Settles O48: the frame of `Height` decodes to the height after its trip, which is the height itself on the grid. -/
theorem d2pHeightRoundTrip : Obligations.D2pHeightRoundTrip := by
  unfold Obligations.D2pHeightRoundTrip
  refine ⟨fun h hg => ⟨_, answer_d2pEnc_height h, ?_⟩, fun h k hk => ⟨_, answer_d2pEnc_height h, ?_⟩⟩
  · rw [answer_d2pDec_hbFrame, heightTrip_of_onGrid hg]
  · rw [answer_d2pDec_hbFrame, heightTrip_of_heightAfterTrip hk]

/-- Settles O45: the raw frame of an `Unknown` is decoded by its command byte `b`, to `Unknown` again if that is in no
row of the table. -/
theorem p2dUnknownRoundTrip : Obligations.P2dUnknownRoundTrip := by
  unfold Obligations.P2dUnknownRoundTrip
  intro a b c d e
  obtain ⟨m, hm⟩ := exists_answer_p2dDec_eq_p2d (rawFrame a b c d e)
  have hheight := p2dHeight_eq (rawFrame a b c d e)
  refine ⟨_, m, answer_p2dEnc_unknown a b c d e, hm, ?_, fun h => p2dMsg_eq_of_answer hm (answer_p2dDec_up h),
    fun h => p2dMsg_eq_of_answer hm (answer_p2dDec_down h), fun h => p2dMsg_eq_of_answer hm (answer_p2dDec_noKey h),
    fun h => p2dMsg_eq_of_answer hm (answer_p2dDec_deskReset h),
    fun h => p2dMsg_eq_of_answer hm (hheight ▸ answer_p2dDec_one h),
    fun h => p2dMsg_eq_of_answer hm (hheight ▸ answer_p2dDec_two h),
    fun h => p2dMsg_eq_of_answer hm (hheight ▸ answer_p2dDec_three h),
    fun h => p2dMsg_eq_of_answer hm (answer_p2dDec_resetOne h),
    fun h => p2dMsg_eq_of_answer hm (answer_p2dDec_resetTwo h),
    fun h => p2dMsg_eq_of_answer hm (answer_p2dDec_resetThree h)⟩
  rw [← p2dKnown_iff_mem, Bool.not_eq_true]
  constructor
  · rintro rfl
    refine Bool.eq_false_iff.2 fun hk => ?_
    obtain ⟨m', hm', hknown⟩ := exists_answer_p2dDec_of_known (f := rawFrame a b c d e) hk
    rw [← p2dMsg_eq_of_answer hm hm'] at hknown
    cases hknown
  · exact fun hk => p2dMsg_eq_of_answer hm (answer_p2dDec_unknown hk)

/-- Settles O49: the raw frame of an `Unknown` is decoded by its command byte `b`, 0 for `Height`. -/
theorem d2pUnknownRoundTrip : Obligations.D2pUnknownRoundTrip := by
  unfold Obligations.D2pUnknownRoundTrip
  intro a b c d e
  have hheight (hb : b = 0) : answer (.d2pDec (rawFrame a b c d e)) =
      some (.d2p (.height (.cm ((256 * (c.toNat : Cm) + (d.toNat : Cm)) / 10 + 65)))) :=
    d2pHeight_eq (rawFrame a b c d e) ▸ answer_d2pDec_height hb
  obtain ⟨m, hm⟩ := exists_answer_d2pDec_eq_d2p (rawFrame a b c d e)
  refine ⟨_, m, answer_d2pEnc_unknown a b c d e, hm, ⟨?_, ?_⟩, fun hb => d2pMsg_eq_of_answer hm (hheight hb)⟩
  · rintro rfl hb
    cases d2pMsg_eq_of_answer hm (hheight hb)
  · exact fun hb => d2pMsg_eq_of_answer hm (answer_d2pDec_unknown hb)

/-! ## Canonical frames -/

section
variable {f : Frame}

/-- A frame has the frame builder's shape exactly when `BUILD` of its command byte and payload makes it (R71). -/
theorem builderShaped_iff : builderShaped f ↔ buildFrame f.cmd f.pa f.pb = f := by
  obtain ⟨start, addr, cmd, pa, pb, ck, endMark⟩ := f
  have hck : checksum 1 cmd pa pb = ck ↔ ck.toNat = (1 + cmd.toNat + pa.toNat + pb.toNat) % 256 := by
    rw [← BitVec.toNat_inj, checksum_toNat, eq_comm]
    rfl
  rw [buildFrame_eq, Frame.mk.injEq, hck, builderShaped, structurallyValid]
  constructor
  · rintro ⟨⟨rfl, rfl⟩, rfl, h⟩
    exact ⟨rfl, rfl, rfl, rfl, rfl, h, rfl⟩
  · rintro ⟨rfl, rfl, -, -, -, h, rfl⟩
    exact ⟨⟨rfl, rfl⟩, rfl, h⟩

/-- Of a no-payload command the one canonical frame is that command's `BUILD` with an empty payload. -/
theorem canonicalP2D_iff_noPayload (hnp : f.cmd ∈ ([1, 2, 3, 4, 10, 11, 12] : List Byte)) :
    canonicalP2D f ↔ npFrame f.cmd = f := by
  rw [canonicalP2D, builderShaped_iff]
  constructor
  · rintro ⟨hshape, ⟨-, hpa, hpb⟩ | hpreset⟩
    · rwa [hpa, hpb] at hshape
    · exact absurd hpreset (not_preset_of_noPayload _ hnp)
  · intro hf
    have hpa : f.pa = 0 := (congrArg Frame.pa hf).symm
    have hpb : f.pb = 0 := (congrArg Frame.pb hf).symm
    exact ⟨by rwa [hpa, hpb], .inl ⟨hnp, hpa, hpb⟩⟩

/-- Of a preset command the canonical frames are those of the frame builder. -/
theorem canonicalP2D_iff_preset (hpreset : f.cmd ∈ ([6, 7, 8] : List Byte)) :
    canonicalP2D f ↔ buildFrame f.cmd f.pa f.pb = f := by
  rw [canonicalP2D, builderShaped_iff, and_iff_left (.inr hpreset)]

theorem canonicalD2P_iff (hcmd : f.cmd = 0) : canonicalD2P f ↔ buildFrame 0 f.pa f.pb = f := by
  rw [canonicalD2P, builderShaped_iff, and_iff_left hcmd, hcmd]

theorem canonicalP2D_npFrame {cmd : Byte} (hnp : cmd ∈ ([1, 2, 3, 4, 10, 11, 12] : List Byte)) :
    canonicalP2D (npFrame cmd) :=
  (canonicalP2D_iff_noPayload (f := npFrame cmd) hnp).2 rfl

theorem canonicalP2D_buildFrame {cmd : Byte} (hpreset : cmd ∈ ([6, 7, 8] : List Byte)) (pa pb : Byte) :
    canonicalP2D (buildFrame cmd pa pb) :=
  (canonicalP2D_iff_preset (f := buildFrame cmd pa pb) hpreset).2 rfl

theorem canonicalD2P_buildFrame (pa pb : Byte) : canonicalD2P (buildFrame 0 pa pb) :=
  (canonicalD2P_iff (f := buildFrame 0 pa pb) rfl).2 rfl

theorem p2dKnown_of_canonicalP2D (hf : canonicalP2D f) : p2dKnown f.cmd = true := by
  obtain ⟨-, ⟨hnp, -, -⟩ | hpreset⟩ := hf
  · exact (p2dKnown_iff_noPayload_or_preset f.cmd).2 (.inl hnp)
  · exact (p2dKnown_iff_noPayload_or_preset f.cmd).2 (.inr hpreset)

/-- The raw frame of a frame's five inner bytes is the frame itself exactly when it has both markers. -/
theorem rawFrame_eq_self_iff : rawFrame f.addr f.cmd f.pa f.pb f.ck = f ↔ structurallyValid f := by
  obtain ⟨start, addr, cmd, pa, pb, ck, endMark⟩ := f
  simp [rawFrame, structurallyValid, eq_comm]

end

/-! ## From a frame to a message and back -/

section
variable {f : Frame}

/-- The bytes of the height a Panel→Desk frame carries are its payload, so encoding it again builds the same payload. -/
theorem hlFrame_p2dHeight (cmd : Byte) (f : Frame) : hlFrame cmd (p2dHeight f) = buildFrame cmd f.pa f.pb := by
  rw [hlFrame, p2dHeight, offP2D, heightToBytes_bytesToHeight]

theorem hbFrame_d2pHeight (f : Frame) : hbFrame (d2pHeight f) = buildFrame 0 f.pa f.pb := by
  rw [hbFrame, d2pHeight, offD2P, heightToBytes_bytesToHeight, cmdHeight]

/-- Decode then encode of a no-payload command gives the frame of that command. -/
theorem exists_p2d_trip_noPayload (hnp : f.cmd ∈ ([1, 2, 3, 4, 10, 11, 12] : List Byte)) :
    ∃ m, answer (.p2dDec f) = some (.p2d m) ∧ answer (.p2dEnc m) = some (.frame (npFrame f.cmd)) ∧
      p2dIsUnknown m = false := by
  simp only [List.mem_cons, List.not_mem_nil, or_false] at hnp
  rcases hnp with h | h | h | h | h | h | h
  · exact ⟨_, answer_p2dDec_up h, h ▸ rfl, rfl⟩
  · exact ⟨_, answer_p2dDec_down h, h ▸ rfl, rfl⟩
  · exact ⟨_, answer_p2dDec_noKey h, h ▸ rfl, rfl⟩
  · exact ⟨_, answer_p2dDec_deskReset h, h ▸ rfl, rfl⟩
  · exact ⟨_, answer_p2dDec_resetOne h, h ▸ rfl, rfl⟩
  · exact ⟨_, answer_p2dDec_resetTwo h, h ▸ rfl, rfl⟩
  · exact ⟨_, answer_p2dDec_resetThree h, h ▸ rfl, rfl⟩

/-- Decode then encode of a preset command gives `BUILD` of the command and the payload. -/
theorem exists_p2d_trip_preset (hpreset : f.cmd ∈ ([6, 7, 8] : List Byte)) :
    ∃ m, answer (.p2dDec f) = some (.p2d m) ∧
      answer (.p2dEnc m) = some (.frame (buildFrame f.cmd f.pa f.pb)) ∧ p2dIsUnknown m = false := by
  simp only [List.mem_cons, List.not_mem_nil, or_false] at hpreset
  rw [← hlFrame_p2dHeight]
  rcases hpreset with h | h | h
  · exact ⟨_, answer_p2dDec_one h, h ▸ answer_p2dEnc_one _, rfl⟩
  · exact ⟨_, answer_p2dDec_two h, h ▸ answer_p2dEnc_two _, rfl⟩
  · exact ⟨_, answer_p2dDec_three h, h ▸ answer_p2dEnc_three _, rfl⟩

theorem answer_d2pEnc_d2pHeight (f : Frame) :
    answer (.d2pEnc (.height (d2pHeight f))) = some (.frame (buildFrame 0 f.pa f.pb)) := by
  rw [answer_d2pEnc_height, hbFrame_d2pHeight]

end

/-- Settles O46: the frame that comes back is built from the command byte and, for a preset, the payload, and the
canonical frames are the ones built so. -/
theorem p2dKnownFrameRoundTrip : Obligations.P2dKnownFrameRoundTrip := by
  unfold Obligations.P2dKnownFrameRoundTrip
  intro f hk
  rcases (p2dKnown_iff_noPayload_or_preset f.cmd).1 ((p2dKnown_iff_mem f.cmd).2 hk) with hnp | hpreset
  · obtain ⟨m, hdec, henc, -⟩ := exists_p2d_trip_noPayload hnp
    exact ⟨m, _, hdec, henc, (canonicalP2D_iff_noPayload hnp).symm, canonicalP2D_npFrame hnp, rfl,
      fun hpreset => absurd hpreset (not_preset_of_noPayload _ hnp)⟩
  · obtain ⟨m, hdec, henc, -⟩ := exists_p2d_trip_preset hpreset
    exact ⟨m, _, hdec, henc, (canonicalP2D_iff_preset hpreset).symm, canonicalP2D_buildFrame hpreset f.pa f.pb, rfl,
      fun _ => ⟨rfl, rfl⟩⟩

/-- Settles O47: the default row copies bytes 1 to 5 into `Unknown`, which is encoded between the markers. -/
theorem p2dUnknownFramePassthrough : Obligations.P2dUnknownFramePassthrough := by
  unfold Obligations.P2dUnknownFramePassthrough
  intro f hk
  rw [← p2dKnown_iff_mem, Bool.not_eq_true] at hk
  exact ⟨_, _, answer_p2dDec_unknown hk, answer_p2dEnc_unknown _ _ _ _ _, rfl, rawFrame_eq_self_iff⟩

/-- Settles O50: command byte 0 goes through the height of the payload back into the frame builder; every other one
through `Unknown`, which is encoded between the markers. -/
theorem d2pFrameRoundTrip : Obligations.D2pFrameRoundTrip := by
  unfold Obligations.D2pFrameRoundTrip
  intro f
  by_cases hcmd : f.cmd = 0
  · exact ⟨_, _, answer_d2pDec_height hcmd, answer_d2pEnc_d2pHeight f,
      fun _ => ⟨answer_build 0 f.pa f.pb, (canonicalD2P_iff hcmd).symm⟩, fun hne => absurd hcmd hne⟩
  · exact ⟨_, _, answer_d2pDec_unknown hcmd, answer_d2pEnc_unknown _ _ _ _ _, fun h => absurd h hcmd,
      fun _ => ⟨rfl, rawFrame_eq_self_iff⟩⟩

/-- Every message other than `Unknown` is encoded to a canonical frame. -/
theorem canonicalP2D_of_answer {m : P2DMsg} (hm : p2dIsUnknown m = false) {f : Frame}
    (hf : answer (.p2dEnc m) = some (.frame f)) : canonicalP2D f := by
  cases m with
  | unknown => cases hm
  | one h => exact frame_eq_of_answer (answer_p2dEnc_one h) hf ▸ canonicalP2D_buildFrame (by decide) _ _
  | two h => exact frame_eq_of_answer (answer_p2dEnc_two h) hf ▸ canonicalP2D_buildFrame (by decide) _ _
  | three h => exact frame_eq_of_answer (answer_p2dEnc_three h) hf ▸ canonicalP2D_buildFrame (by decide) _ _
  | _ => cases hf; exact canonicalP2D_npFrame (by decide)

/-- Settles O51: encoding builds canonical frames only, and a canonical frame is the encoding of what it decodes to. -/
theorem canonicalFramesAreTheEncodedOnes : Obligations.CanonicalFramesAreTheEncodedOnes := by
  unfold Obligations.CanonicalFramesAreTheEncodedOnes
  refine fun f => ⟨⟨fun hf => ?_, fun ⟨m, hm, henc⟩ => canonicalP2D_of_answer hm henc⟩,
    ⟨fun hf => ⟨d2pHeight f, ?_⟩, fun ⟨h, henc⟩ => ?_⟩⟩
  · rcases (p2dKnown_iff_noPayload_or_preset f.cmd).1 (p2dKnown_of_canonicalP2D hf) with hnp | hpreset
    · obtain ⟨m, -, henc, hm⟩ := exists_p2d_trip_noPayload hnp
      exact ⟨m, hm, by rw [henc, (canonicalP2D_iff_noPayload hnp).1 hf]⟩
    · obtain ⟨m, -, henc, hm⟩ := exists_p2d_trip_preset hpreset
      exact ⟨m, hm, by rw [henc, (canonicalP2D_iff_preset hpreset).1 hf]⟩
  · rw [answer_d2pEnc_d2pHeight, (canonicalD2P_iff hf.2).1 hf]
  · exact frame_eq_of_answer (answer_d2pEnc_height h) henc ▸ canonicalD2P_buildFrame _ _

/-! ## The other direction's decoder -/

/-- Settles O52: 0 is no command byte of the Panel→Desk table, and the bytes of that table are not 0. -/
theorem wrongDecoderGivesUnknown : Obligations.WrongDecoderGivesUnknown := by
  unfold Obligations.WrongDecoderGivesUnknown
  have hzero : p2dKnown 0 = false := rfl
  refine ⟨fun f ⟨_, hcmd⟩ => answer_p2dDec_unknown (hcmd ▸ hzero), fun f hf => answer_d2pDec_unknown fun hcmd => ?_,
    _, answer_p2dEnc_unknown 1 0 1 94 96, by decide +kernel⟩
  have hk := p2dKnown_of_canonicalP2D hf
  rw [hcmd] at hk
  cases hk

/-! ## Injectivity of the frame builder (40_frame_builder_checksum section 2) -/

/-- Settles O40: the three inputs stand in the frame at the indices 2 to 4. -/
theorem buildIsInjective : Obligations.BuildIsInjective := by
  unfold Obligations.BuildIsInjective
  intro cmd pa pb cmd' pa' pb' h
  have hframe : buildFrame cmd pa pb = buildFrame cmd' pa' pb' :=
    frame_eq_of_answer (answer_build cmd pa pb) (h.trans (answer_build cmd' pa' pb'))
  exact ⟨congrArg Frame.cmd hframe, congrArg Frame.pa hframe, congrArg Frame.pb hframe⟩

end Sys2Proof.Machine
end
